-- ==== Sys2Proof/Word.lean ====
section
/-! DEFINITION. The word types of the VK192 and the index types of its channels, banks and ports. -/

namespace Sys2Proof

/-- A register word, a message word, an Autis register (R5, R36). -/
abbrev Word := BitVec 32

/-- One byte of a bank memory (R440). -/
abbrev Byte := BitVec 8

/-- A timestamp: [63:8] periods of the 640 MHz timing clock, [7:0] delay taps (R138). -/
abbrev TS := BitVec 64

/-- A global channel number, 24 x bank + channel in bank (R4). -/
abbrev Chan := Fin 192

/-- A bank number (R9). -/
abbrev Bank := Fin 8

/-- The bank of a channel (R4). -/
def Chan.bank (c : Chan) : Bank := ⟨c.val / 24, by have := c.isLt; omega⟩

/-- The channel's number in its bank (R4). -/
def Chan.inBank (c : Chan) : Nat := c.val % 24

/-- Channel `n` of bank `b` (R4); `n` is taken modulo 24. -/
def Bank.chan (b : Bank) (n : Nat) : Chan := ⟨24 * b.val + n % 24, by have := b.isLt; omega⟩

end Sys2Proof
end

