-- ==== Sys2Proof/Syntax.lean ====
section
/-! DEFINITION. The commands of the VK192: one constructor per row of the table of operations and events, and the operand types they carry. -/

namespace Sys2Proof

/-- An access port (R40): Shelf Link U, Shelf Link D, the management serial port, the IEEE 1149.1 debug port. -/
inductive Port where
  | slU | slD | msp | dbg
deriving DecidableEq, Repr

/-- A Shelf Link port: U upstream, D downstream (R305). -/
inductive Side where
  | u | d
deriving DecidableEq, Repr

/-- The width of a register access; only the debug port can ask for less than 32 bits (R41). -/
inductive Width where
  | b8 | b16 | b32
deriving DecidableEq, Repr

/-- The host blocks (R438), in the order of their base addresses. -/
inductive HostBlk where
  | dev | xc | tb | sl | msp | sec | fol | cat | thm | led
deriving DecidableEq, Repr

/-- The blocks of a bank's register window (R439), in the order of their offsets. -/
inductive BankBlk where
  | bk | loop | cap | mld | eis | cmp | rsv | tdc
deriving DecidableEq, Repr

/-- A register block: a host block, a bank block or a channel window (R36, R438, R439). -/
inductive Blk where
  | host (h : HostBlk)
  | bank (b : Bank) (k : BankBlk)
  | chan (c : Chan)
deriving DecidableEq, Repr

/-- The header of a crossing frame (R10 to R13), the lane it arrived on, that lane's direction and whether its CRC-32C passed. -/
structure XHead where
  ty     : Fin 16
  dir    : Fin 4
  len    : Fin 1024
  seq    : BitVec 16
  lane   : Fin 4
  toHost : Bool
  crcOk  : Bool
deriving DecidableEq, Repr

/-- A Shelf Link frame as received (R309): the link word, the three header words, the payload and whether the check word passed. -/
structure SlFrame where
  lseq    : Fin 4096
  vmaj    : Fin 16
  vmin    : Fin 16
  type    : Fin 16
  resp    : Bool
  cls     : Fin 4
  ctrl    : Bool
  len     : Fin 2048
  dmode   : Fin 4
  dst     : Fin 1024
  src     : Fin 1024
  noaddr  : Bool
  hops    : Fin 64
  seq     : BitVec 16
  tag     : BitVec 16
  payload : List Word
  crcOk   : Bool
deriving DecidableEq, Repr

/-- A TRIG message as received (R316), with the outcome of the CRC of each of its two copies. -/
structure TrigMsg where
  vmaj   : Fin 16
  vmin   : Fin 16
  kind   : Fin 16
  hold   : Bool
  ctrl   : Bool
  group  : BitVec 8
  ts     : TS
  origin : Fin 1024
  hops   : Fin 64
  ochan  : BitVec 8
  crc1   : Bool
  crc2   : Bool
deriving DecidableEq, Repr

/-- What training tells a port of its neighbour (R308). -/
structure Neighbour where
  vmaj   : Fin 16
  vmin   : Fin 16
  role   : Fin 4
  isCtrl : Bool
  addr   : Option (Fin 1024)
deriving DecidableEq, Repr

/-- A cause that the hardware detects in a block (R333 to R336): its code, location code and parameters,
and whether its condition is still present (FLT_STS.LIVE). -/
structure CauseIn where
  blk  : Blk
  code : BitVec 16
  loc  : Word
  p0   : Word
  p1   : Word
  live : Bool
deriving DecidableEq, Repr

/-- The fatal fault codes of R343 and the direction of a lost lane 0. -/
inductive FatalCode where
  | lane0 (toHost : Bool) | xloss | keyarea | hdinteg
deriving DecidableEq, Repr

/-- The four comparators of a channel (R287). -/
inductive Comparator where
  | ov | uv | oc | rp
deriving DecidableEq, Repr

/-- A channel whose self-check saw another output than expected (R304): the first phase that failed and the outputs seen. -/
structure ScFail where
  chan  : Fin 24
  phase : Fin 4
  outs  : Fin 16
deriving DecidableEq, Repr

/-- The three kinds of memory a scrub passes over (R373). -/
inductive ScrubKind where
  | fieldSram | hdSram | mram
deriving DecidableEq, Repr

/-- A hit on a TDC line (R160): the edge of the sampling clock that finds it, and the physical tap. -/
structure Hit where
  t   : TS
  tap : Fin 192
deriving DecidableEq, Repr

/-- A run of periods in which BKn_FLT was sampled high (R99): the first and the last of them. -/
structure HighRun where
  since : TS
  t     : TS
deriving DecidableEq, Repr

/-- How far a pair's readings of CALREF0 and CALREF1 lie from the certified values (R364), in 0.25 µV and nV. -/
structure CrossRead where
  v : Int
  i : Int
deriving DecidableEq, Repr

/-- What the reserve pair of a bank gives to phase 1 of an external calibration (R364), for V in 0.25 µV and for I in nV: its first readings
of CALREF0 and CALREF1, or the internal reference values it forms. -/
structure CalReading where
  bank : Bank
  v    : Int
  i    : Int
deriving DecidableEq, Repr

/-- The commands the block takes: one constructor per row of the table of operations and events, in its order.
Each docstring is the rule the row cites and what the row does. -/
inductive Instr where
  /-- R6: A write through the normal alias to a register that has no row of its own stores or ignores each field according to its access code. -/
  | regWrite (p : Port) (addr : Word) (width : Width) (v : Word)
  /-- R37: A write through the set, clear or toggle alias performs an indivisible read-modify-write on each field by its access code. -/
  | aliasWrite (p : Port) (addr : Word) (width : Width) (v : Word)
  /-- R48: A write to a block's UNLOCK register opens its lock with the key, or arms it with any other value. -/
  | unlock (p : Port) (addr : Word) (v : Word)
  /-- R54: A write of the read accession number to a status register clears its RA bits when the number matches and the register has been read. -/
  | accessionWriteBack (p : Port) (addr : Word) (v : Word)
  /-- R43: A read of the low word of a 64-bit value loads the port's read shadow with the high word. -/
  | lowWordRead (p : Port) (addr : Word)
  /-- R44: A write to the low word of a 64-bit value is held in the port's write shadow until the high-word write. -/
  | lowWordWrite (p : Port) (addr : Word) (v : Word)
  /-- R42: An access to an address in no block or window reads 0, does nothing and sets ACCERR of the DEV block. -/
  | unmappedAccess (p : Port) (addr : Word) (write : Bool) (v : Word)
  /-- R59: An addressed-mode read frame shifts out the previous status byte and one or more register words, with reads performed at the edges given. -/
  | mspReadFrame (cmd : Byte) (nbits : Nat) (late : Nat)
  /-- R61: An addressed-mode write frame performs its held writes in order when MSP_SEL_N rises. -/
  | mspWriteFrame (cmd : Byte) (data : List Word) (extra : Nat)
  /-- R66: At the end of a chain-mode frame each device performs the command in its stage and loads its response at the next frame start. -/
  | mspChainFrame (di : Nat) (nbits : Nat) (late : Bool)
  /-- R65: A chain write with PART 0 stages 24 data bits, or writes MSP_PAGE at index 0x3F. -/
  | chainWriteLow (idx : Fin 64) (data : BitVec 24)
  /-- R65: A chain write with PART 1 writes the register from the staging and its high byte, or sets ACCERR when the tag does not match. -/
  | chainWriteHigh (idx : Fin 64) (data : BitVec 24)
  /-- R65: A chain read with PART 0 reads the register, returns bits [23:0] and stages the high byte. -/
  | chainReadLow (idx : Fin 64)
  /-- R65: A chain read with PART 1 returns the staged or live high byte. -/
  | chainReadHigh (idx : Fin 64)
  /-- R65: Command byte 0x7F in a chain stage performs no operation. -/
  | chainNop
  /-- R62: A write to index 0x3F sets MSP_PAGE when the frame's writes are performed. -/
  | mspPageWrite (v : Word)
  /-- R56: A write to MSP_CFG sets mode and word length from the next frame, keeping WLEN on an out-of-range value. -/
  | mspCfgWrite (p : Port) (v : Word)
  /-- R62: A read or write of MSP_XDATA reads or writes the register addressed by MSP_XADDR. -/
  | mspXdataAccess (p : Port) (write : Bool) (v : Word)
  /-- R10: FD receives a CMD frame and performs the bank register or memory access, in order per port. -/
  | cmdFrame (h : XHead) (p : Port) (write : Bool) (addr : Word) (v : Word)
  /-- R10: HD receives an RSP frame and completes the host's access. -/
  | rspFrame (h : XHead)
  /-- R22: HD receives a record or Colophon body from the spool and passes it on. -/
  | recFrame (h : XHead)
  /-- R158: HD sends a TIME frame on lane 0 every 2^14 timing-clock periods. -/
  | timeFrameSend (t : TS)
  /-- R158: The field side receives a TIME frame, echoes it, takes line announcements and slews its time by the measured offset. -/
  | timeFrame (h : XHead) (t2 : TS)
  /-- R158: HD receives the field echo of a TIME frame and computes the crossing latency into XC_LAT. -/
  | timeEcho (h : XHead) (t3 : TS) (t4 : TS)
  /-- R15: A side acts on the first copy of a TRIG frame that passes its check and discards the second. -/
  | trigFrame (h : XHead) (h2 : XHead) (m : TrigMsg)
  /-- R338: HD receives an FLT frame and updates its mirror of the field block's fault registers. -/
  | fltFrame (h : XHead)
  /-- R340: The field side receives an FLT frame of a fatal code and enters its safe state within 10 µs. -/
  | fatalFltFrame (h : XHead)
  /-- R16: The field side in its boot state receives image frames, checks the digest and starts the image or reports a boot failure. -/
  | bootFrame (h : XHead) (words : List Word) (last : Bool)
  /-- R17: HD sends an HB frame every 250 µs. -/
  | hbSend
  /-- R19: A valid HB frame from HD restarts the field autonomy timer, applies a pending XC_AUTO and is answered with the spool level. -/
  | hbFrame (h : XHead) (t : TS)
  /-- R20: A guarded write to XC_AUTO sets the autonomy window, which takes effect at the next valid HB frame. -/
  | xcAutoWrite (p : Port) (v : Word)
  /-- R14: After the 15th failed resend on a lane the sender takes it out of use as a contained crossing fault. -/
  | laneDown (toHost : Bool) (lane : Fin 4)
  /-- R14: Lane 0 of a direction is lost after 16 TIME periods without a good frame or 1 ms without relock, a fatal fault. -/
  | lane0 (toHost : Bool)
  /-- R18: On expiry of the autonomy timer the field side drives every channel safe, ends steps with HOSTLOSS and sets AUTOEXP. -/
  | autonomyExpiry (t : TS)
  /-- R21: When HD receives no field HB for 1 ms it sets FIELDLOSS, reports a contained fault and retrains the lanes. -/
  | fieldloss (t : TS)
  /-- R21: When the lanes do not work 1 s after the field autonomy timer would have expired, HD declares a fatal crossing loss. -/
  | xloss (t : TS)
  /-- R24: When the crossing works again the field side sends held causes and all spooled records in order. -/
  | crossingRestored
  /-- R33: On loss of CK_XF the field PLL enters holdover within 1 µs and sets XC_STS.HOLDOVER. -/
  | ckXfLoss
  /-- R33: When CK_XF returns the field PLL relocks and slews field time back to host time. -/
  | ckXfReturn
  /-- R100: A write setting CH_CTRL.EN is refused with ENCAUSE or takes the channel from its safe state into OPEN. -/
  | chEnable (p : Port) (c : Chan) (v : Word)
  /-- R101: A write clearing CH_CTRL.EN drives the channel to its safe state and ends its step with DISABLED. -/
  | chDisable (p : Port) (c : Chan) (v : Word)
  /-- R72: At a PWM period boundary the channel applies the newest duty, dead times and period and places the period's edges. -/
  | pwmBoundary (c : Chan) (t : TS)
  /-- R75: A transition on SWT is time-stamped by the channel TDC and used by the dead-time tracker. -/
  | swtEdge (c : Chan) (rising : Bool) (hit : Hit)
  /-- R79: After 16 periods without an SWT transition the channel sets SWTLOSS and holds the dead times at DTMAX. -/
  | swtloss (c : Chan)
  /-- R79: After 256 periods without an SWT transition the channel has a contained fault and goes safe. -/
  | swtdead (c : Chan)
  /-- R89: At its loop slot the channel's fast pair samples V and I and the loop engine computes the new demand. -/
  | loopSample (c : Chan) (t : TS) (fv : BitVec 16) (fi : BitVec 16)
  /-- R91: 480 ns after its sample the update hands its duty to the PWM slice or puts its DAC code on DRA. -/
  | loopTick (c : Chan) (t : TS)
  /-- R87: After 10 consecutive updates outside the voltage window plus guard the step ends with VWINDOW. -/
  | vwindow (c : Chan)
  /-- R83: The DRA current limit starts to act and sets CH_STS.SCLIM. -/
  | draLimit (c : Chan) (t : TS)
  /-- R83: When the DRA limit has acted for 100 µs the channel has a contained fault and goes safe. -/
  | sclim (c : Chan) (t : TS)
  /-- R93: A write of N = 2–8 to LOOP_GRPc.N forms a locked group or is refused with GRPREF. -/
  | groupForm (p : Port) (c : Chan) (v : Word)
  /-- R93: A write of 0 or 1 to LOOP_GRPc.N dissolves the group that channel c leads. -/
  | groupDissolve (p : Port) (c : Chan) (v : Word)
  /-- R96: When a member's current leaves the sharing tolerance for 1 ms the group has a contained fault. -/
  | share (c : Chan) (member : Fin 24) (t : TS)
  /-- R97: A write setting LOOP_CTL.BKEN raises BKn_EN when all its conditions hold, or is ignored under the interlock or shutdown. -/
  | bankEnable (p : Port) (b : Bank)
  /-- R101: A write clearing LOOP_CTL.BKEN drives the bank's channels safe and lowers BKn_EN. -/
  | bankDisable (p : Port) (b : Bank)
  /-- R98: When the start delay after BKn_EN rises ends, the bank's channels may drive. -/
  | endlyExpiry (b : Bank) (t : TS)
  /-- R99: When BKn_FLT has been high for DEGL + 1 periods the bank goes safe, BKn_EN falls and BKEN is cleared. -/
  | bankflt (b : Bank) (high : HighRun)
  /-- R99: The first period that samples BKn_FLT low returns FLTIN to 0. -/
  | bknFltLow (b : Bank) (t : TS)
  /-- R113: At each modulator sample boundary the calibrated V and I samples enter the filters and the coulomb and energy integrators. -/
  | modSample (c : Chan) (t : TS) (v : Int) (i : Int) (fv : BitVec 16)
  /-- R107: At an output boundary the decimation filter completes a V and I output, and a settled one enters CH_PV and CH_PI. -/
  | filterOutput (c : Chan) (t : TS)
  /-- R110: At a line-cycle boundary the line-cycle integrator completes the mean of its interval. -/
  | lineIntegrationEnd (c : Chan) (t : TS)
  /-- R115: A write of 1 to CH_MCTL.QECLR requests clearing of both integrators at the next modulator sample boundary. -/
  | qeclr (p : Port) (c : Chan)
  /-- R116: At the clear boundary both integrators go to 0 and every reference value kept against them is adjusted. -/
  | qeclrApply (c : Chan) (t : TS)
  /-- R106: Every 100 ms the fast pair is trimmed against the precision value at a loop-slot boundary. -/
  | fastTrim (c : Chan) (t : TS)
  /-- R118: An aux slot starts and the fast V converter stands in for the precision V converter. -/
  | auxSlotStart (c : Chan) (t : TS)
  /-- R120: At the end of an aux slot the aux result is computed into CH_T and its age restarts. -/
  | auxResult (c : Chan) (t : TS) (x : Nat)
  /-- R121: The reserve pair connects to the next channel's inputs and a turn starts. -/
  | rsvTurnStart (b : Bank) (t : TS)
  /-- R121: 100 ms into a turn the reserve pair is settled and the shadow comparison starts. -/
  | rsvShadowStart (b : Bank) (t : TS)
  /-- R122: At the shadow end the reserve pair takes over the channel at one modulator sample boundary. -/
  | handover (b : Bank) (t : TS) (dv : Int) (di : Int)
  /-- R123: A handover deferred for 60 s skips the turn, sets SKIP and counts it. -/
  | rsvTurnSkip (b : Bank) (t : TS)
  /-- R121: A calibration phase of the channel pair (offset, gain or CALREF) ends after 4 s. -/
  | rsvCalPhase (b : Bank) (t : TS) (accept : Bool) (check : CrossRead)
  /-- R121: The channel pair reconnects with its new coefficients and the return shadow starts. -/
  | rsvReconnect (b : Bank) (t : TS)
  /-- R122: At the return shadow end the channel pair serves again from one modulator sample boundary. -/
  | handback (b : Bank) (t : TS) (dv : Int) (di : Int)
  /-- R128: The reserve pair calibrates itself; a failure stops the rotation as a contained fault. -/
  | rsvSelfCal (b : Bank) (t : TS) (failV : Bool) (failI : Bool)
  /-- R121: 20 s after its start the turn ends and the next channel's turn begins. -/
  | rsvTurnEnd (b : Bank) (t : TS)
  /-- R129: At a record boundary the channel makes a periodic measurement record into the spool. -/
  | periodicRecord (c : Chan) (t : TS)
  /-- R140: TS[63:8] wraps to 0, the wrap count advances and TB_STS.WRAP is set. -/
  | tsWrap
  /-- R143: The line master sends the announcement of the next cycle at phase 0x8000. -/
  | lineAnnounce (t : TS)
  /-- R144: At a line-cycle boundary the device starts the next cycle, from its announcement or synthesised. -/
  | lineCycleBoundary (t : TS)
  /-- R145: A LINE_SYNC rising edge is time-stamped and accepted for a cycle or rejected. -/
  | lineSyncEdge (t : TS)
  /-- R148: After 3 cycles without edges, or 8 without an accepted edge, the line timer enters LOST. -/
  | lineloss (t : TS)
  /-- R148: A write of TB_CTL.LSRC = 1 puts the line timer in FREE and makes it ignore LINE_SYNC. -/
  | lsrcWrite (p : Port)
  /-- R443: A write setting TB_CTL.TEN starts taking time from the source, or aligns a source device at once. -/
  | timeEnable (p : Port) (v : Word)
  /-- R319: A TIME SYNC message is stamped on leaving port D and on arrival at port U. -/
  | timeSync (f : SlFrame) (rx : Bool) (t : TS)
  /-- R319: A TIME DELAY message returned from port U is stamped on leaving and arrival. -/
  | timeDelay (f : SlFrame) (rx : Bool) (t : TS)
  /-- R150: A TIME FOLLOW message gives t1 and t4, from which the receiver computes delay and offset and corrects its TS. -/
  | timeFollow (f : SlFrame) (t : TS)
  /-- R319: A received TIME ANNOUNCE gives the next line cycle and is forwarded out of port D. -/
  | announce (f : SlFrame) (t : TS)
  /-- R152: The device drives a TSYNC_OUT pulse or marker pulse at each multiple of 2^PER periods. -/
  | tsyncOutPulse (t : TS)
  /-- R152: A TSYNC_IN pulse is time-stamped and gives a slew offset, a TSSET load or an echo. -/
  | tsyncInPulse (t : TS) (marker : Bool)
  /-- R48: The guarded high-word write of TB_TSSET stores the pending coarse time. -/
  | tssetWrite (p : Port) (hi : Word)
  /-- R157: On loss of port U lock or 4 missing TSYNC pulses the device keeps TS running and sets THOLD. -/
  | timeSourceLoss (t : TS)
  /-- R157: When the time source returns the device resumes slewing. -/
  | timeSourceReturn (t : TS)
  /-- R153: A write of TB_CAL.START begins a 256-pulse hop calibration. -/
  | hopCalStart (p : Port) (v : Word)
  /-- R153: After 256 echoed pulses the line master forms TB_CALRES.DLY and VALID. -/
  | hopCalDone (t : TS)
  /-- R161: After 2^20 hits in a band the tap table is formed, stored and applied or rejected. -/
  | codeDensityDone (line : Fin 390) (hits : List Nat)
  /-- R162: A new tap table applies from the next CK_TIME edge at a modulator sample boundary. -/
  | tapTableApply (line : Fin 390) (t : TS)
  /-- R168: A selected edge inside the gate is stamped into a system TDC queue. -/
  | systemTdcEdge (k : Fin 4) (rising : Bool) (hit : Hit)
  /-- R164: A read of word 3 of a TDC queue window returns and removes the head entry. -/
  | tdcQueuePop (p : Port) (addr : Word)
  /-- R434: When REFCLK is absent or off frequency the host PLL holds and REFLOSS is set. -/
  | refloss
  /-- R179: Does nothing for one slot. -/
  | nop (c : Chan)
  /-- R179: Jumps to the target. -/
  | jmp (c : Chan)
  /-- R179: Jumps when the condition holds, cancelling provisional successors when taken before the deadline. -/
  | jcc (c : Chan)
  /-- R179: Jumps on a pending or level condition and clears it when pending. -/
  | bev (c : Chan)
  /-- R179: Pushes the return offset and jumps. -/
  | call (c : Chan)
  /-- R179: Pops the call stack and jumps. -/
  | ret (c : Chan)
  /-- R179: Pushes a loop entry or jumps to the exit for a count of 0. -/
  | loop (c : Chan)
  /-- R179: Decrements the top loop count and jumps back or pops. -/
  | endl (c : Chan)
  /-- R179: Waits until a target line time. -/
  | waitl (c : Chan)
  /-- R179: Waits until a target timestamp. -/
  | waitt (c : Chan)
  /-- R179: The waiting machine resumes at the first modulator sample boundary at or after its target. -/
  | waitTargetReached (c : Chan) (t : TS)
  /-- R180: Waits at a group barrier with a channel mask and timeout. -/
  | syncg (c : Chan)
  /-- R180: The barrier releases when all named machines wait, or fails when one stops. -/
  | syncgRelease (c : Chan) (t : TS)
  /-- R180: A waiting machine's timeout runs out and the barrier fails for all. -/
  | syncgTimeout (c : Chan) (t : TS)
  /-- R179: Stops the machine in HALT with a halt code. -/
  | halt (c : Chan)
  /-- R181: Copies a register or live operand. -/
  | mov (c : Chan)
  /-- R181: Loads an immediate. -/
  | ldi (c : Chan)
  /-- R181: Adds two values. -/
  | add (c : Chan)
  /-- R181: Subtracts two values. -/
  | sub (c : Chan)
  /-- R181: Multiplies two values. -/
  | mul (c : Chan)
  /-- R183: Forms a rounded, saturated fixed-point product. -/
  | mulq (c : Chan)
  /-- R181: Sets flags from A minus B. -/
  | cmp (c : Chan)
  /-- R181: Takes the signed minimum. -/
  | min (c : Chan)
  /-- R181: Takes the signed maximum. -/
  | max (c : Chan)
  /-- R181: Takes the saturated absolute value. -/
  | abs (c : Chan)
  /-- R181: Bitwise AND. -/
  | and (c : Chan)
  /-- R181: Bitwise OR. -/
  | or (c : Chan)
  /-- R181: Bitwise XOR. -/
  | xor (c : Chan)
  /-- R181: Shifts left. -/
  | shl (c : Chan)
  /-- R181: Shifts right, logical or arithmetic. -/
  | shr (c : Chan)
  /-- R184: Requests a step in CC, CV, CP, CR or OPEN mode. -/
  | force (c : Chan)
  /-- R203: Requests a step whose setpoint moves linearly to a target. -/
  | ramp (c : Chan)
  /-- R204: Requests a step with the previous step's mode and setpoint. -/
  | hold (c : Chan)
  /-- R204: Requests an OPEN step during which the bank may rest. -/
  | rest (c : Chan)
  /-- R184: Sets one limit of the set-up. -/
  | limit (c : Chan)
  /-- R185: Adds one end condition to the set-up. -/
  | untilCond (c : Chan)
  /-- R184: Declares the power and deferral limit of the next step. -/
  | ledger (c : Chan)
  /-- R187: Starts a waveform-follow step or queues a segment as successor. -/
  | play (c : Chan)
  /-- R187: Starts or queues play from the stream FIFO. -/
  | stream (c : Chan)
  /-- R187: A PLAY or STREAM waiting for room queues its item when the playing item ends. -/
  | queueRoom (c : Chan)
  /-- R222: Attaches a marker to the next item that starts. -/
  | segm (c : Chan)
  /-- R188: Starts a line-cycle integration of V, I, Q or E. -/
  | meas (c : Chan)
  /-- R188: After n line cycles the mean or change is written and the machine resumes. -/
  | measDone (c : Chan) (t : TS)
  /-- R188: Waits for the next settled filtered output. -/
  | snap (c : Chan)
  /-- R188: The first settled output after issue is written to the pair. -/
  | snapDone (c : Chan)
  /-- R231: Arms the channel's capture with counts and group and clears TRG. -/
  | arm (c : Chan)
  /-- R231: At the arm instant the capture becomes PRIMED or ARMED and starts recording. -/
  | armInstant (c : Chan) (t : TS)
  /-- R235: Sets or disables one trigger slot. -/
  | trigc (c : Chan)
  /-- R247: Binds or unbinds a Mould for the channel's steps. -/
  | mould (c : Chan)
  /-- R252: Requests an impedance step on a profile. -/
  | eis (c : Chan)
  /-- R263: Requests a pulse-resistance step. -/
  | pulse (c : Chan)
  /-- R221: Schedules a trigger or marker output. -/
  | sig (c : Chan)
  /-- R221: At the next control sample boundary or item start the output is emitted. -/
  | sigEmit (c : Chan) (t : TS)
  /-- R188: Makes a POST record. -/
  | post (c : Chan)
  /-- R392: Closes the open Colophon, queues it for signing and opens a new one. -/
  | sealColophon (c : Chan)
  /-- R23: A SEAL waiting for spool space completes when space is free. -/
  | sealSpoolSpace (c : Chan)
  /-- R188: Raises a machine fault with cause USER. -/
  | fault (c : Chan)
  /-- R189: At the start boundary the step copies the set-up, advances the step counter and starts driving. -/
  | stepStart (c : Chan) (t : TS)
  /-- R178: A snapshot of conditions is taken and the step's end conditions are evaluated. -/
  | controlSampleBoundary (c : Chan) (t : TS)
  /-- R190: A step ends at a boundary with its TERM and the machine resumes with the channel in OPEN. -/
  | stepEnd (c : Chan) (t : TS)
  /-- R199: CH_ACTL CMD 1 accepts or refuses a START with SCAUSE. -/
  | start (p : Port) (c : Chan) (v : Word)
  /-- R199: An accepted START sets up the machine and opens a Colophon after the next modulator sample boundary. -/
  | startEffect (c : Chan)
  /-- R200: CH_ACTL CMD 2 halts the machine and aborts its step. -/
  | stop (p : Port) (c : Chan)
  /-- R200: CH_ACTL CMD 3 ends the running step with ABORT. -/
  | abort (p : Port) (c : Chan)
  /-- R200: CH_ACTL CMD 4 returns a stopped machine to IDLE. -/
  | clear (p : Port) (c : Chan)
  /-- R176: A write of CH_AEV.SET makes EVn pending. -/
  | nudge (p : Port) (c : Chan) (ev : Byte)
  /-- R198: BK_PCTL CMD 1 starts committing an image slot. -/
  | commit (p : Port) (b : Bank) (v : Word)
  /-- R198: The commit checks complete and BK_PSTS reports the result. -/
  | commitDone (b : Bank)
  /-- R198: BK_PCTL CMD 2 invalidates a slot or refuses with INUSE or EMPTY. -/
  | release (p : Port) (b : Bank) (v : Word)
  /-- R198: A high-word write stores a 64-bit program word unless it lies in a committed image. -/
  | programWordWrite (p : Port) (b : Bank) (i : Fin 65536) (hi : Word)
  /-- R212: At a waveform timer tick the next sample plays, and an item may end and its successor start. -/
  | timerTick (b : Bank) (tm : Fin 16) (t : TS)
  /-- R219: 1.2 µs after a tick the provisional successor becomes final and a pending marker binds. -/
  | successorDeadline (c : Chan) (t : TS)
  /-- R215: A STRM message is accepted into the stream FIFO or discarded with its cause. -/
  | strm (h : XHead) (payload : List Word)
  /-- R214: A write of CH_SCTL.RESET zeroes the stream indices and empties the FIFO. -/
  | streamReset (p : Port) (c : Chan) (v : Word)
  /-- R224: BK_SCH_GO with KIND 1 decides admission of a scheduled START. -/
  | submitStart (p : Port) (b : Bank)
  /-- R224: BK_SCH_GO with KIND 2 decides admission of a scheduled STOP. -/
  | submitStop (p : Port) (b : Bank)
  /-- R224: BK_SCH_GO with KIND 3 decides admission of a scheduled ABORT. -/
  | submitAbort (p : Port) (b : Bank)
  /-- R224: BK_SCH_GO with KIND 4 decides admission of a scheduled NUDGE. -/
  | submitNudge (p : Port) (b : Bank)
  /-- R444: BK_SCH_GO with KIND 5 withdraws pending commands of a tag. -/
  | cancel (p : Port) (b : Bank)
  /-- R223: At its execution boundary a scheduled START takes effect or is dropped. -/
  | schedStart (c : Chan) (t : TS)
  /-- R223: At its execution boundary a scheduled STOP acts. -/
  | schedStop (c : Chan) (t : TS)
  /-- R223: At its execution boundary a scheduled ABORT acts. -/
  | schedAbort (c : Chan) (t : TS)
  /-- R223: At its execution boundary EVn becomes pending. -/
  | schedNudge (c : Chan) (t : TS)
  /-- R230: The capture decimator completes an output that is stored and tested against triggers and Moulds. -/
  | captureOutput (c : Chan) (t : TS)
  /-- R237: Met trigger conditions fire the capture once, making it FILLING and TRG pending. -/
  | captureFire (c : Chan) (t : TS)
  /-- R239: A group capture's settle window closes. -/
  | settleWindowClose (c : Chan) (t : TS)
  /-- R234: A capture ends DONE or CANCEL and makes its capture record. -/
  | captureEnd (c : Chan) (t : TS)
  /-- R233: CAP_CCMDc CMD 1 ends an armed capture with CANCEL. -/
  | disarm (p : Port) (c : Chan)
  /-- R241: CAP_CCMDc CMD 2 fires an ARMED capture with primary cause host FIRE. -/
  | hostFire (p : Port) (c : Chan)
  /-- R228: A CAP_CALLOCc write assigns pages or is refused with ALLOCREF. -/
  | capAllocWrite (p : Port) (c : Chan) (v : Word)
  /-- R244: A write setting MLD_CFGm.EN enables the Mould or is refused with BADMLD. -/
  | mouldEnable (p : Port) (b : Bank) (m : Fin 16) (v : Word)
  /-- R248: A violation takes effect at its decision and applies ABORT_SAFE, ENDSTEP or BRANCH. -/
  | mouldViolation (c : Chan) (t : TS)
  /-- R251: A write setting EIS_PpCFG0.EN enables the profile or sets BADPRF. -/
  | eisProfileEnable (p : Port) (b : Bank) (k : Fin 16) (v : Word)
  /-- R261: A write setting PLS_PqCFG.EN enables the profile or sets PBADPRF. -/
  | pulseProfileEnable (p : Port) (b : Bank) (k : Fin 16) (v : Word)
  /-- R254: After the measurement window the impedances are computed and the impedance records made. -/
  | eisResultsReady (c : Chan) (t : TS)
  /-- R276: A request not admitted by its deferral limit leaves the queue with TERM LEDGERTO. -/
  | ledgerto (c : Chan) (t : TS)
  /-- R277: A write of LED_CTL.EN takes effect at the next line-cycle boundary. -/
  | ledgerEnable (p : Port) (v : Word)
  /-- R279: After N cycles the device makes a ledger record. -/
  | ledgerRecord (t : TS)
  /-- R280: A run outside the limits reaching its third cycle sets OVER and may freeze admissions. -/
  | ledover (t : TS)
  /-- R282: At a line-cycle boundary a resting bank enters its chosen power state. -/
  | powerStateEntry (b : Bank) (t : TS)
  /-- R284: A resume time before a planned event the bank begins to wake. -/
  | plannedWake (b : Bank) (t : TS)
  /-- R285: A wake cause starts the bank's return to L0. -/
  | wake (b : Bank) (t : TS)
  /-- R285: After the resume time the bank is in L0 and the rotation resumes. -/
  | resumeComplete (b : Bank) (t : TS)
  /-- R286: Every 10 s in L3 the bank reads open-circuit voltage. -/
  | ocvRead (b : Bank) (t : TS) (vs : List Int)
  /-- R296: A comparator output changes, latching its transition bit and timestamp. -/
  | comparatorTransition (c : Chan) (k : Comparator) (out : Bool) (t : TS)
  /-- R293: In sampled operation comparators decide 2 µs after a CK_TICK. -/
  | sampledDecision (c : Chan) (ov : Bool) (uv : Bool) (oc : Bool) (rp : Bool) (t : TS)
  /-- R300: FILK_N asserts and the whole device goes safe with TERM INTERLOCK. -/
  | interlock (t : TS)
  /-- R302: FILK_N rises and FSAFE_N may be released. -/
  | filkRelease (t : TS)
  /-- R304: A CMP_SCHK write starts a self-check of masked channels. -/
  | selfCheck (p : Port) (b : Bank) (mask : BitVec 24)
  /-- R304: The self-check phases complete and failures are reported. -/
  | selfCheckDone (b : Bank) (t : TS) (fails : List ScFail)
  /-- R314: A REG_RD request reads a register. -/
  | regRd (q : Side) (f : SlFrame)
  /-- R314: A REG_WR request writes a register. -/
  | regWr (q : Side) (f : SlFrame)
  /-- R314: A REG_BURST performs consecutive accesses. -/
  | regBurst (q : Side) (f : SlFrame)
  /-- R314: A MEM_RD reads memory words. -/
  | memRd (q : Side) (f : SlFrame)
  /-- R314: A MEM_WR writes memory words. -/
  | memWr (q : Side) (f : SlFrame)
  /-- R312: A frame not for the device is forwarded out of the other port. -/
  | slFrameForward (q : Side) (f : SlFrame)
  /-- R310: An ACK releases acknowledged frames from the replay buffer. -/
  | ack (q : Side) (lseq : Fin 4096)
  /-- R310: A NAK makes the sender resend from LSEQ. -/
  | nak (q : Side) (lseq : Fin 4096)
  /-- R310: After 20 µs without ACK the port resends. -/
  | replayTimeout (q : Side) (t : TS)
  /-- R239: A received TRIG FIRE is forwarded and taken by group captures. -/
  | trigFire (q : Side) (m : TrigMsg)
  /-- R238: A received TRIG ARM arms primed group captures. -/
  | trigArm (q : Side) (m : TrigMsg)
  /-- R318: A TRIG PULSE pulses mapped GT lines. -/
  | trigPulse (q : Side) (m : TrigMsg)
  /-- R318: A TRIG HIGH holds mapped GT lines high. -/
  | trigHigh (q : Side) (m : TrigMsg)
  /-- R318: A TRIG LOW releases mapped GT lines. -/
  | trigLow (q : Side) (m : TrigMsg)
  /-- R330: A port achieves lock and the device announces itself. -/
  | linkTrained (q : Side) (n : Neighbour)
  /-- R323: Every 100 ms an unassigned device repeats its ANNOUNCE. -/
  | discAnnounceRepeat (t : TS)
  /-- R324: A ring head assigns an address for a received ANNOUNCE. -/
  | discAnnounce (f : SlFrame)
  /-- R323: A device loads its address and SPLIT. -/
  | discAssign (f : SlFrame)
  /-- R324: A write of SL_RING lets the head assign held announcements. -/
  | slRingWrite (p : Port) (v : Word)
  /-- R325: A port losing lock for 2 µs is lost and TOPO LOSS sent. -/
  | portLoss (q : Side) (t : TS)
  /-- R326: A TOPO LOSS on the egress port switches egress. -/
  | topoLoss (q : Side) (f : SlFrame)
  /-- R327: A TOPO RESTORE returns the egress port. -/
  | topoRestore (q : Side) (f : SlFrame)
  /-- R325: A write of 0 to SL_CTL.UEN or DEN takes a port down. -/
  | portDown (p : Port) (q : Side)
  /-- R327: A write of 1 to SL_CTL.UEN or DEN enables a port. -/
  | portUp (p : Port) (q : Side)
  /-- R387: IMG OP 0 erases a slot. -/
  | erase (q : Side) (f : SlFrame)
  /-- R387: IMG OP 1 writes words into a slot. -/
  | chunk (q : Side) (f : SlFrame)
  /-- R385: IMG OP 2 verifies an image slot. -/
  | verify (q : Side) (f : SlFrame)
  /-- R389: IMG OP 3 or SEC_SWCMD GO switches to a slot. -/
  | switch (q : Side) (f : SlFrame)
  /-- R332: After a host switch the supervisor runs and sends TOPO REJOIN. -/
  | hostRestartDone (verified : Bool)
  /-- R388: A write of SEC_ARBCMT.COMMIT raises the anti-rollback counter. -/
  | arbCommit (p : Port) (v : Word)
  /-- R390: An ATTEST request asks for a signed report. -/
  | attest (q : Side) (f : SlFrame)
  /-- R390: The signed attestation report is sent. -/
  | attestReport
  /-- R395: A Colophon is signed and sent as a COLO message. -/
  | colophonSigned
  /-- R396: An unacknowledged Colophon is resent after 1 s. -/
  | colophonResend (seq : Word) (t : TS)
  /-- R396: A write of SEC_CACK releases a Colophon. -/
  | secCack (p : Port) (seq : Word)
  /-- R336: A fault cause latches, counts and raises interrupts and messages. -/
  | faultCause (cause : CauseIn)
  /-- R340: HD latches the fatal state and stops. -/
  | fatalEntry (code : FatalCode) (p0 : Word) (p1 : Word)
  /-- R352: A write of FOL_CTL.FREEZE = 1 freezes the Folio. -/
  | freeze (p : Port) (v : Word)
  /-- R352: A write of FREEZE = 0 thaws the Folio with a GAP record. -/
  | thaw (p : Port) (v : Word)
  /-- R352: After 1 s the freeze ends and FRZTO is set. -/
  | freezeTimeout (t : TS)
  /-- R353: A stored 1 in CLRRING empties the ring. -/
  | clrring (p : Port) (v : Word)
  /-- R353: A stored 1 in CLRHIST clears histograms. -/
  | clrhist (p : Port) (v : Word)
  /-- R351: A read of FOL_WIN7 with AUTOINC advances FOL_CUR. -/
  | folioWindowRead (p : Port)
  /-- R350: A write setting FOL_SRCn.EN configures a source area. -/
  | folioSourceEnable (p : Port) (n : Fin 64) (v : Word)
  /-- R367: Every 1 ms the thermal model updates node temperatures. -/
  | thermalModelUpdate (power : List Nat)
  /-- R368: Every 100 ms sensors check the model and TREF moves. -/
  | sensorCheck (readings : List Int)
  /-- R369: A write to THM_SENSCTL readmits a sensor. -/
  | sensorReadmit (p : Port) (v : Word)
  /-- R370: 60 s after field start the model gains history. -/
  | modelHistoryStart (t : TS)
  /-- R373: A scrub pass corrects single-bit errors. -/
  | scrubPass (kind : ScrubKind) (errs : List CauseIn)
  /-- R361: CAT_SHCMD CMD 1 commits a shunt entry. -/
  | shuntCommit (p : Port) (v : Word)
  /-- R361: CAT_SHCMD CMD 2 erases a shunt entry. -/
  | shuntErase (p : Port) (v : Word)
  /-- R361: Both copies are written and CH_SHUNT takes the new value. -/
  | shuntWriteDone (t : TS)
  /-- R364: CAT_CALCMD CMD 1 starts an external calibration. -/
  | calibrate (p : Port) (v : Word)
  /-- R364: CAT_CALCMD CMD 2 abandons a running calibration. -/
  | abandon (p : Port) (v : Word)
  /-- R364: Phase 1 ends and the die's reference is updated. -/
  | calPhase1End (t : TS) (first : List CalReading) (refs : List CalReading)
  /-- R365: Phase 2 cross-check ends and RESULT is reported. -/
  | calPhase2End (t : TS)
  /-- R379: Every 60 s Patina recomputes its outputs. -/
  | patinaUpdate
  /-- R379: Hourly Patina writes its stored state. -/
  | patinaStoreWrite
  /-- R403: At start instant P the host side boots and latches straps. -/
  | hostStart (role : Fin 4) (bootsel : Bool)
  /-- R407: RESET_N low resets the device. -/
  | resetAssert (longEnough : Bool)
  /-- R401: A host rail falling holds HD in reset. -/
  | hostRailLoss
  /-- R400: The field side enters its boot state. -/
  | fieldPorRelease
  /-- R406: A field rail falling resets the field side. -/
  | fieldRailLoss
  /-- R403: The field side comes up. -/
  | fieldUp (t : TS)
  /-- R408: A write of DEV_CTL.FREBOOT reboots the field side. -/
  | freboot (p : Port) (v : Word)
  /-- R173: The machine issues an instruction word whose OP is reserved, which is a machine fault with cause ILLEGAL. -/
  | reservedOp (c : Chan)
  /-- R387: Up to 200 ms after a VERIFY request, the image checks complete, the slot becomes VERIFIED or FAILED and the response is sent. -/
  | verifyDone (slot : Fin 4)
  /-- R17: When no valid HB frame from HD has arrived for 500 µs, the field side raises XC_STS.AUTON, and after four heartbeat periods it sets HBLATE. -/
  | heartbeatGap (t : TS)
  /-- R434: REFCLK returns within tolerance, the host PLL relocks to it and DEV_STS.REFOK reads 1 again. -/
  | refclkReturn
deriving DecidableEq, Repr

end Sys2Proof
end

