-- ==== Sys2Proof/Decode.lean ====
section
/-! DEFINITION. Commands spelt by words: the table of operations and events gives no row any bits, so a word spells no command. -/

namespace Sys2Proof

/-- The command that a word of `nbits` bits spells: none, because no row of the table gives bits. -/
def decodeTableWord (_nbits _w : Nat) : Option Instr := none

end Sys2Proof
end

