-- ==== Sys2Proof/Machine/State.lean ====
section
/-! DEFINITION. The state of the VK192 as plain data: every register, memory, FIFO, buffer, counter and mode the spec names, the queue of waiting commands, and the state after reset. -/

namespace Sys2Proof.Machine

open Sys2Proof

/-- A sparse map from numbers to values, kept in one canonical form: keys strictly rising and no entry equal to
the value an unlisted key has (`smGet`, `smSet` and `smWf` of Machine/Ops.lean). -/
abbrev SMap (α : Type) := List (Nat × α)

/-- Bank memory as listed bytes; an unlisted byte reads 0 (R408: field SRAM is zeroed). -/
abbrev Mem := List Host.Cell

/-! ### Ports (R40, R43, R44, R55 to R67) -/

/-- A shadow of a 64-bit access: the address of the high word and the word held (R43, R44). -/
structure Shadow where
  tag : Nat
  val : Word
deriving DecidableEq, Repr

/-- What one access port holds: its read shadow, its write shadow and the data of its last read. -/
structure PortSt where
  rd    : Option Shadow := none
  wr    : Option Shadow := none
  rdata : Word := 0
deriving DecidableEq, Repr

/-- The management serial port beyond its registers: MSP_PAGE.PAGE, the chain write and read staging, the response word that the
next chain frame loads, what MSP_DO shifted out in the last frame (the status byte, the turnaround left out and the words of an
addressed-mode frame; the bits of a chain-mode frame as a number, first bit highest), and the bits that the stage of a mis-set device
holds (R55 to R67). -/
structure Msp where
  page    : BitVec 24 := 0
  chainWr : Option (Fin 64 × BitVec 24) := none
  chainRd : Option (Fin 64 × BitVec 8) := none
  resp    : Word := 0x80000000
  stat    : Byte := 0
  dout    : List Word := []
  chain   : Nat := 0
  pass    : Nat := 0
deriving DecidableEq, Repr

/-! ### Faults and the Folio (R333 to R353) -/

/-- One Folio record (R347). -/
structure FolRec where
  accn  : Word
  code  : BitVec 16
  flags : BitVec 16
  loc   : Word
  opsec : Word
  pcyc  : Word
  rep   : Word
  p0    : Word
  p1    : Word
deriving DecidableEq, Repr

/-- A field cause that waits for the crossing (R339), with the instant it was latched. -/
structure Held where
  cause : CauseIn
  ts    : TS
deriving DecidableEq, Repr

/-- The Folio in MRAM (oldest record first), its next record accession number, the operating seconds at the last
start of HD, the power-cycle count, and the freeze in progress: when it began and how many of the causes counted in
it were contained or fatal (R346 to R352). `area` holds the words of the 64 source areas (R350). -/
structure Folio where
  ring    : List FolRec := []
  nextAcc : Word := 1
  opsec0  : Word := 0
  pcyc    : Word := 0
  frzAt   : Option Nat := none
  gapBad  : Nat := 0
  area    : SMap Word := []
deriving DecidableEq, Repr

/-! ### Time (R138 to R168) -/

/-- The line timer's state (R145). -/
inductive LineState where
  | free | locked | lost
deriving DecidableEq, Repr

/-- A line announcement (R143): the cycle it names, that cycle's boundary in taps and length in taps. -/
structure LineAnn where
  cyc    : Nat
  start  : Int
  len    : Nat
  relock : Bool
  synth  : Bool
deriving DecidableEq, Repr

/-- Line time as one side of the device keeps it (R142 to R144): the running cycle with its boundary in taps, its length and marks, the
announced cycle, the boundary and length of the cycle before, and the cycles since the last announcement. -/
structure LineTime where
  cyc    : Nat := 0
  start  : Int := 0
  len    : Nat := 2048000000
  synth  : Bool := true
  relock : Bool := false
  next   : Option LineAnn := none
  old    : Option (Int × Nat) := none
  miss   : Nat := 0
deriving DecidableEq, Repr

/-- The windows of a gate by its stamped edges (R165): how many have opened, and the newest two, newest first, with their closings. -/
structure Windows where
  count : Nat := 0
  last  : List (TS × Option TS) := []
deriving DecidableEq, Repr

/-- A stretch in elapsed taps in which TRIG_OUT is high (R221): a level held by a channel, without an end until it is released, or a
pulse. -/
structure OutHigh where
  chan  : Option Nat
  from_ : Nat
  until_ : Option Nat
deriving DecidableEq, Repr

/-- One entry of a TDC queue (R163). -/
structure TdcEntry where
  ts   : TS
  intv : Int
  tag  : BitVec 16
deriving DecidableEq, Repr

/-- A system TDC beyond its registers: its queue, the starts that wait, a pending overflow mark, drops,
the last edge of its input and the TRIG_IN window that is open. -/
structure SysTdc where
  queue  : List TdcEntry := []
  starts : List TS := []
  ovf    : Bool := false
  drop   : Nat := 0
  last   : Option TS := none
deriving DecidableEq, Repr

/-- The marks of a time exchange (R150). -/
structure Exchange where
  t1 : Option TS := none
  t2 : Option TS := none
  t3 : Option TS := none
  t4 : Option TS := none
deriving DecidableEq, Repr

/-- The time base: the host TS, the field TS as an offset in taps from it, what is still to be slewed off each, the
taps elapsed since reset (never stepped), the field's wrap count (R141), the line time of the host and of the field side (`hl`, `fl`,
R144), the newest announcement and the one in the TIME frame sent last (R158), the line timer of R145 to R148 (whether the re-lock
cycle locks it, Pm in taps times 184,504,320, the intervals behind it, accepted and rejected edges with their cycles, and a re-lock
that waits to be announced: its last edge, Pm and intervals), the exchanges in progress, whether REFCLK is good (R434), a hop
calibration with the pulse it waits for and its differences t4 - t1 (R153), the TSYNC pulses, the elapsed taps of the last one received
and the time between the last two (R157), the system TDCs and their gates, the tap tables in force and those that wait to apply (line,
then the fractions of all 192 taps), and for an edge-placing line the table before the one in force with the PWM periods since the
change (R160 to R162). -/
structure TimeBase where
  now       : TS := 0
  fofs      : Int := 0
  slew      : Int := 0
  fslew     : Int := 0
  mono      : Nat := 0
  fwrap     : Nat := 0
  hl        : LineTime := {}
  fl        : LineTime := {}
  annNew    : Option LineAnn := none
  annFly    : Option LineAnn := none
  lockDue   : Bool := false
  line      : LineState := .free
  nomF      : Nat := 50000
  pm        : Nat := 377864847360000000
  ivals     : List Nat := []
  lastAcc   : Option (Nat × Int) := none
  accE      : List (Nat × Int) := []
  rejE      : List (Nat × Int) := []
  edges     : List Int := []
  edgeIn    : Bool := false
  noEdge    : Nat := 0
  noAccRun  : Nat := 0
  relock    : Option (Int × Nat × List Nat) := none
  slx       : Exchange := {}
  xx        : Exchange := {}
  xd        : Option Int := none
  refclk    : Bool := false
  calRun    : Bool := false
  calSent   : Option TS := none
  calDiffs  : List Int := []
  perF      : Nat := 20
  tsyncOut  : Option TS := none
  tsyncLast : Option Nat := none
  tsyncGap  : Option Nat := none
  sys       : List SysTdc := [{}, {}, {}, {}]
  tgate     : Windows := {}
  trigOpen  : List TS := []
  echoOut   : Option TS := none
  taps      : SMap Byte := []
  tapNew    : List (Nat × List Byte) := []
  tapOld    : List (Nat × List Byte × Nat) := []
deriving DecidableEq, Repr

/-! ### The isolation crossing (R10 to R24) -/

/-- What the record spool holds, oldest first: a record of 64 bytes, or a closed Colophon body and the slots it takes (R22, R23). -/
inductive SpoolItem where
  | record (chan : Option Chan) (bytes : List Byte)
  | body (chan : Chan) (slots : Nat) (bytes : List Byte)
deriving DecidableEq, Repr

/-- What a frame of lanes 1 to 3 carries beside its header: an access, its answer, a record, stream words, fault registers, a fatal
code, image words or a heartbeat (R13). -/
inductive XBody where
  | cmd (p : Port) (write : Bool) (addr v : Word)
  | rsp
  | recd
  | strm (payload : List Word)
  | flt
  | fatalFlt
  | boot (words : List Word) (last : Bool)
  | hb
deriving DecidableEq, Repr

/-- The crossing beyond its registers: whether it works, the sequence number expected next of each direction and lane class (`seq`,
R11) and the one sent next where HD or the field side sends by itself (`tx`), good frames of lanes 1 to 3 that arrived before an
earlier one, with what they carry (none for a number that only passes), HD's frames that wait while the crossing does not work
(R12), the last TRIG taken (R15), the autonomy timer (R17 to R20), the heartbeats and whether HD watches for them (R21, R404), the
resend failures of each lane (R14), the spool, the held causes (R339), the boot image in transfer, its slot and how the last one
ended (R16), when the last good TIME frame of each direction arrived, and since when host-to-field lane 0 is out of lock (R14). -/
structure Crossing where
  up        : Bool := true
  seqHF0    : BitVec 16 := 0
  seqHF1    : BitVec 16 := 0
  seqFH0    : BitVec 16 := 0
  seqFH1    : BitVec 16 := 0
  txHF0     : BitVec 16 := 0
  txHF1     : BitVec 16 := 0
  txFH1     : BitVec 16 := 0
  early     : List (XHead × Option XBody) := []
  wait      : List XBody := []
  trigSeq   : Option (BitVec 16) := none
  trigSeqFH : Option (BitVec 16) := none
  autoRun   : Bool := false
  autoWin   : Nat := 10000
  autoFrom  : Nat := 0
  autoSafe  : Bool := false
  hbHost    : Nat := 0
  lossAt    : Option Nat := none
  fails     : List Nat := [0, 0, 0, 0, 0, 0, 0, 0]
  resend    : List (BitVec 16) := []
  spool     : List SpoolItem := []
  held      : List Held := []
  heldGap   : Nat := 0
  heldBad   : Nat := 0
  bootDig   : Option (List Word) := none
  bootData  : List Word := []
  bootSlot  : Option (Fin 4) := none
  bootGood  : Bool := false
  bootBad   : Bool := false
  timeHF    : Nat := 0
  timeFH    : Nat := 0
  hbLate    : Bool := false
  hbWatch   : Bool := false
  lockLost  : Option Nat := none
  irq       : Bool := false
deriving DecidableEq, Repr

/-! ### Shelf Link (R305 to R332) -/

/-- A frame in a replay buffer, and how often it has been resent (R310). -/
structure Sent where
  frame   : SlFrame
  resends : Nat
deriving DecidableEq, Repr

/-- A frame that waits for a port; `own` when this device originated it (R321). -/
structure Waiting where
  frame : SlFrame
  own   : Bool
deriving DecidableEq, Repr

/-- One Shelf Link port: trained, lost, its replay buffer and waiting frames, the next LSEQ to send and the next LSEQ
expected, the acknowledgement it last sent, whether a NAK is outstanding, and the TRIG it sent last (R308 to R317). -/
structure SlPort where
  lock    : Bool := false
  lost    : Bool := false
  replay  : List Sent := []
  wait    : List Waiting := []
  lastOwn : Bool := false
  nextTx  : Nat := 0
  nextRx  : Nat := 0
  acked   : Option Nat := none
  nak     : Option Nat := none
  idleAt  : Nat := 0
  trigTx  : Option TrigMsg := none
deriving DecidableEq, Repr

/-- An ANNOUNCE that a ring head holds (R324): the hops it travelled and its payload. -/
structure Announced where
  hops    : Nat
  payload : List Word
deriving DecidableEq, Repr

/-- Shelf Link beyond its registers: both ports, the source sequence number, the egress side and whether it returns home once its
replay buffer is empty (R326, R327), held announcements, the positions a head has given away with their serial numbers, the breaks
reported to it (the position, and whether its port D is lost), when this device last announced itself, whether requests are
answered with RESTART (R331), and the bits of class 2 records sent in the running millisecond (R321). -/
structure ShelfLink where
  pu       : SlPort := {}
  pd       : SlPort := {}
  srcSeq   : BitVec 16 := 0
  egressD  : Bool := false
  back     : Bool := false
  heldAnn  : List Announced := []
  taken    : List (Nat × Word × Word) := []
  topoLost : List (Nat × Bool) := []
  annAt    : Nat := 0
  restart  : Bool := false
  rsvMs    : Nat := 0
  rsvBits  : Nat := 0
deriving DecidableEq, Repr

/-! ### Power and reset (R399 to R408) -/

/-- Power and reset state that no register holds: the fatal latch of R340 with its code and the fatal code of the power cycle before,
whether HD is held in reset, since when a host rail is missing, whether HD has ever started, the field rails, whether the field side is
up, the cause of its next start (DEV_RCAUSE), the level of FILK_N (true for high), when the field side came up, and whether the next
start follows a VDDH power-up. -/
structure Power where
  fatal     : Option Nat := none
  prevFatal : Nat := 0
  reset     : Bool := true
  railAt    : Option Nat := none
  started   : Bool := false
  frail     : Bool := false
  fup       : Bool := false
  fcause    : Nat := 0
  filk      : Bool := true
  fieldUpAt : Nat := 0
  coldStart : Bool := true
deriving DecidableEq, Repr

/-! ### The force path (R68 to R102) -/

/-- What a channel's drive lands do: held by the pull-downs before the field side is up, low, switching,
at a DAC code, or high-impedance with code 0 (R70, R72, R80, R84). -/
inductive Drive where
  | pulled | low | pwm | dac | hiZ
deriving DecidableEq, Repr

/-- A loop update whose tick is due 480 ns after its sample (R91): the instant of the sample, the duty in taps or the DAC code
it hands over, and the demand of a group's leader for its members (R94). -/
structure Update where
  tAt : TS
  u   : Nat
  dem : Int
deriving DecidableEq, Repr

/-- The force path of one channel beyond its registers: what its lands do, the duties whose ticks await a period boundary, newest
first, with the instants of those ticks (R74, R91), the duty that the loop commands for the running period, that period and the
switch-node delays measured in it, its command dead times A and B, the periods without an SWT transition, the updates whose ticks are due, oldest first (at the
full rate the next update samples before the tick of the last), and the loops.
Loop quantities are counted in fast-path LSBs (R105) and the integrators in LSBs times 2^24 (R92). -/
structure Force where
  drive    : Drive := .pulled
  pend     : List (TS × Nat) := []
  cmd      : Nat := 0
  perStart : Option TS := none
  perDt    : Nat × Nat := (0, 0)
  dMeasAB  : Option Nat := none
  dMeasBA  : Option Nat := none
  swtSeen  : Bool := false
  swtQuiet : Nat := 0
  swtLost  : Bool := false
  upd      : List Update := []
  iIn      : Int := 0
  iCv      : Int := 0
  iMax     : Int := 0
  iMin     : Int := 0
  lastDem  : Int := 0
  grpDem   : Int := 0
  vwRun    : Nat := 0
  avgV     : Int := 0
  avgI     : Int := 0
  avgN     : Nat := 0
  fresh    : Bool := false
  wasOpen  : Bool := true
  fromSafe : Bool := true
  sclimAt  : Option Nat := none
  trimAt   : Option Nat := none
  trim     : List Word := []
  shareAt  : Option Nat := none
deriving DecidableEq, Repr

/-! ### The measurement path (R103 to R137) -/

/-- Running totals of the modulator samples of a channel: how many, the sums of V (0.25 µV) and I (100 nA), the sum of I
over the members of the group it leads (R31), which for a channel in no group is its own I, and how many samples of V came from
the fast path (R119).
An interval's mean is the difference of two snapshots over the difference of their counts (R110). -/
structure Cum where
  n  : Nat := 0
  sv : Int := 0
  si : Int := 0
  sg : Int := 0
  nf : Nat := 0
deriving DecidableEq, Repr

/-- Five cascaded running sums of the modulator samples; the sinc filters are their differences at output boundaries (R107). -/
structure Cic where
  a1 : Int := 0
  a2 : Int := 0
  a3 : Int := 0
  a4 : Int := 0
  a5 : Int := 0
deriving DecidableEq, Repr

/-- A decimation filter: the ratio and type in force and the running sums at the output boundaries of that setting,
newest first: of V, of I and of the current of the group the channel leads (R31, R107 to R109); `fast` counts the fast-path samples
at the same boundaries. -/
structure Filter where
  ratio : Nat := 10000
  order : Nat := 3
  hist  : List (Int × Int × Int) := []
  fast  : List Nat := []
deriving DecidableEq, Repr

/-- A line-cycle integration in progress (R110): the totals and integrators at its start, the cycle count it ends at, and
the flags of R132 it has gathered (R111, R112). -/
structure LineInt where
  start : Cum
  q0    : Int
  e0    : Int
  endK  : Nat
  fl    : Nat
deriving DecidableEq, Repr

/-- The result of a line-cycle integration that has ended: the sums and counts, the changes of the integrators and the flags. -/
structure LineRes where
  sv : Int
  si : Int
  n  : Nat
  nf : Nat
  dq : Int
  de : Int
  fl : Nat
deriving DecidableEq, Repr

/-- A span of modulator samples over which the components of R136 did not change: how many samples, and the squares of the standard
uncertainties without noise: ug_V and ug_I in ppm, uo_V and uo_I in µV at the input. -/
structure UncSeg where
  n  : Nat
  gv : Rat
  gi : Rat
  ov : Rat
  oi : Rat
deriving DecidableEq, Repr

/-- What a channel's totals, integrators, spans and flags were just before the modulator sample boundary at an instant (in elapsed
taps): what ends at the boundary takes these, whichever of the boundary's events comes first (R115, R131). -/
structure Before where
  at_    : Nat
  cum    : Cum
  q      : Int
  e      : Int
  uncs   : List UncSeg
  absV   : Nat
  absI   : Nat
  hoV    : Nat
  hoI    : Nat
  recFl  : Nat
  postFl : Nat
  ovrI   : Bool
deriving DecidableEq, Repr

/-- The measurement path of one channel beyond its registers. `q` counts 10^-5 nC and `e` counts 2.5 x 10^-15 µJ, so every
modulator sample is added exactly (R113). `recFl` and `postFl` gather the flags of R132 over the running intervals. `uncs`
holds the spans of R136 since the last clear, newest first, `absV` and `absI` the sums of |V| and |I|, `hoV` and `hoI` the sums of the
squared shadow differences. `cicO` is what the group that the channel leads or led adds to the sums of its members (R31). `bef` is the
state before the last boundary and `since` the flags noted after it, `posts` the instants of POSTs that wait for a boundary (R188),
`serveNew` a change of the pair that serves the channel at the next boundary (R128), `ovrVAt`, `ovrIAt` and `ovrGAt` the last overranges of V,
of I and of a member of the group it leads. -/
structure Meas where
  cum      : Cum := {}
  q        : Int := 0
  e        : Int := 0
  cicV     : Cic := {}
  cicI     : Cic := {}
  filt     : Filter := {}
  lastV    : Int := 0
  lastI    : Int := 0
  modAt    : Option Nat := none
  lineInt  : Option LineInt := none
  lineRes  : Option LineRes := none
  recFrom  : Cum := {}
  postFrom : Cum := {}
  recFl    : Nat := 0
  postFl   : Nat := 0
  recSet   : Word := 5
  vNew     : Bool := false
  noCal    : Bool := true
  lost     : Nat := 0
  ovrI     : Bool := false
  ovrVAt   : Option Nat := none
  ovrIAt   : Option Nat := none
  ovrGAt   : Option Nat := none
  cicO     : Cic := {}
  bef      : Option Before := none
  since    : Nat := 0
  posts    : List Nat := []
  serveNew : Option Bool := none
  qeclr    : Option Nat := none
  auxFrom  : Option TS := none
  auxAt    : Option Nat := none
  tHist    : List Int := []
  cicS     : Cic := ⟨0, 0, 0, 0, 0⟩
  shuntNew : Option Word := none
  uncs     : List UncSeg := []
  absV     : Nat := 0
  absI     : Nat := 0
  hoV      : Nat := 0
  hoI      : Nat := 0
deriving DecidableEq, Repr

/-- Where the reserve pair's turn stands (R121); `done` between its self-calibration and the end of the turn. -/
inductive RsvPhase where
  | idle | settle | shadow | offset | gain | check | reconn | shadowBack | selfCal | done
deriving DecidableEq, Repr

/-- The reserve pair of a bank beyond its registers: where the turn stands, since when and when the turn began (in elapsed taps),
whether its self-calibration passed in the turn before and in this turn, whether this turn has discarded its CALREF reading (R363), and the channel of its next
turn (R121 to R128). -/
structure Rotation where
  phase  : RsvPhase := .idle
  since  : Nat := 0
  turnAt : Nat := 0
  passed : Bool := false
  selfOk : Bool := false
  noRef  : Bool := false
  next   : Nat := 0
deriving DecidableEq, Repr

/-! ### The Autis machine and its steps (R169 to R222) -/

/-- The state of an Autis machine; FOLLOW is shown while the channel is a follower (CH_ASTS.STATE). -/
inductive MState where
  | idle | run | step | wait | halt | safehalt | fault
deriving DecidableEq, Repr

/-- The kind of a running or requested step (R184, R187, R188). A HOLD takes the mode of the step before it. -/
inductive StepKind where
  | force (mode : Nat) (setpoint : Int)
  | ramp (mode : Nat) (target : Int) (dur : Nat)
  | hold
  | rest
  | wave
  | eis (profile : Fin 16)
  | pulse (d : Nat) (amp : Int) (dur : Nat) (profile : Fin 16)
deriving DecidableEq, Repr

/-- One end condition of a set-up (R185): event form or level form. -/
inductive UntilCond where
  | event (code : Nat) (neg : Bool)
  | level (op : Nat) (cmp : Nat) (mag : Bool) (thr : Int)
deriving DecidableEq, Repr

/-- A Mould bound to a channel (R247): its number, the action and the handler of a BRANCH. -/
structure Binding where
  mould   : Fin 16
  action  : Nat
  handler : Nat
deriving DecidableEq, Repr

/-- The step set-up (R186, R202). -/
structure Setup where
  vmin   : Option Int := none
  vmax   : Option Int := none
  ilim   : Option Int := none
  plim   : Option Int := none
  time   : Nat := 0
  charge : Nat := 0
  untils : List UntilCond := []
  decl   : Option Int := none
  defLim : Nat := 0
  binds  : List (Option Binding) := [none, none, none, none]
deriving DecidableEq, Repr

/-- The snapshot of conditions at a control sample boundary (R178). -/
structure Snapshot where
  ev   : Nat := 0
  gt   : Nat := 0
  cmpv : Bool := false
  cmpi : Bool := false
  trg  : Bool := false
  und  : Bool := false
  mld  : Bool := false
  dfr  : Bool := false
deriving DecidableEq, Repr

/-- What a machine in state WAIT waits for (CH_ASTS.STATE, R188, R180). -/
inductive Wait where
  | none
  | untilTime (target : Nat)
  | untilLt (lt : Nat)
  | meas (d : Nat) (qty : Nat) (n : Nat)
  | snap (d : Nat)
  | sync (mask : Nat) (deadline : Option Nat)
  | room
  | sealing
deriving DecidableEq, Repr

/-- An item of a waveform-follow step (R208, R212, R213): a segment or a stretch of the stream, its timer, quantity,
samples, scale and offset, how often it plays and the sample it is at. -/
structure PlayItem where
  stream : Bool
  seg    : Nat
  timer  : Nat
  qty    : Nat
  start  : Nat
  len    : Nat
  scale  : Int
  ofs    : Int
  reps   : Nat
  abort  : Bool
  done   : Nat
deriving DecidableEq, Repr

/-- The running step (R189, R202 to R206): its kind, effective mode and setpoint, copied set-up, start instant and the
integrator references, whether it is admitted and has started, and what the loop regulates; when its instruction was issued, in elapsed
taps; `took` once a waveform-follow step has handed its first setpoint to the loop. Modes are those of FORCE. -/
structure Step where
  kind     : StepKind
  started  : Bool
  mode     : Nat
  setpoint : Int
  s0       : Int
  setup    : Setup
  startTs  : TS
  startMono : Nat
  q0       : Int
  e0       : Int
  cum0     : Cum
  flags    : Nat
  settled  : Bool
  ending   : Option (Nat × Nat)
  deferred : Bool
  branch   : Option Nat
  asked    : Nat := 0
  took     : Bool := false
deriving DecidableEq, Repr

/-- A stream FIFO entry: stream index and sample (R214, R215). -/
structure Sample where
  idx : Word
  x   : BitVec 16
deriving DecidableEq, Repr

/-- What a SIG waits to emit (R221): the target, the Shelf Link group and the action. -/
structure SigReq where
  target : Nat
  group  : Nat
  action : Nat
deriving DecidableEq, Repr

/-- A tick of a bank timer at a channel: its instant in elapsed taps and as TS, and the measurement of each member of the channel's group as
it stood there (R211, R220). -/
structure Tick where
  at_  : Nat
  ts   : TS
  meas : List Meas
deriving DecidableEq, Repr

/-- A successor that is provisional (R219): the tick it started at, its segment number, the play index and the last setpoint before it, the
stream samples it has taken, its underruns, the tick at which one asked for the end of the step (R217), the marker that waits for it and the
values at the first modulator sample from its tick on (R222). -/
structure Prov where
  tick  : Tick
  seg   : Nat
  pidx  : Word
  last  : Int
  used  : List Sample := []
  miss  : Nat := 0
  abort : Option Tick := none
  mark  : Option Nat := none
  samp  : Option (Int × Int × Int × Int) := none
deriving DecidableEq, Repr

/-- One Autis machine with its channel's step, play queue, stream and pending markers. Beyond what its registers show: `slotFrom` is the first
instant at which it may issue again (R169); `condBef` holds the pending conditions as they stood before the instant at which they last
changed (R178); `prevMode` and `prevDrive` what the step before leaves for HOLD and RAMP (R203, R204); `endedAt` the instant of the last step
end (R192); `sealAt` a safe-state entry's instant, and what a SEAL in the same slot needs of the time before it (R397); `provs` the successors that are provisional, the oldest first, `replaced` one that a taken branch cancelled, and `passed` the
ticks since then (R219); `tail` a step that has ended and whose last sample still plays, with the instant of OPEN (R220). Instants are
elapsed taps. -/
structure Mach where
  st       : MState := .idle
  pc       : Nat := 0
  w        : Vector Word 16 := Vector.replicate 16 0
  z        : Bool := false
  n        : Bool := false
  c        : Bool := false
  v        : Bool := false
  calls    : List Nat := []
  loops    : List (Nat × Nat) := []
  setup    : Setup := {}
  counter  : Nat := 0
  ev       : Nat := 0
  trg      : Bool := false
  und      : Bool := false
  mld      : Bool := false
  dfr      : Bool := false
  snap     : Snapshot := {}
  wait     : Wait := .none
  slot     : Option (Fin 16) := none
  startReq : Option Word := none
  startSch : Bool := false
  abortReq : Bool := false
  ecc      : Bool := false
  step     : Option Step := none
  queued   : Option StepKind := none
  prevMode : Option (Nat × Int) := none
  prevDrive : Option (Nat × Int) := none
  slotFrom : Nat := 0
  sealAt   : Option (Nat × Bool × Word) := none
  condBef  : Option (Nat × Snapshot) := none
  endedAt  : Option Nat := none
  tail     : Option (Step × Nat) := none
  lastLen  : Nat := 0
  lastQs   : Int := 0
  lastEs   : Int := 0
  sigs     : List SigReq := []
  sigItem  : List SigReq := []
  holds    : List SigReq := []
  playing  : Option PlayItem := none
  queue    : List PlayItem := []
  itemAt   : Option Nat := none
  itemTs   : TS := 0
  tickAt   : Option Nat := none
  segRec   : Option (TS × Nat) := none
  provs    : List Prov := []
  replaced : Option Prov := none
  passed   : List Tick := []
  playLast : Int := 0
  lead     : List (Nat × Int) := []
  snapOut  : Option (Word × Word) := none
  segm     : Option (Nat × Nat) := none
  fifo     : List Sample := []
  widx     : Word := 0
  pidx     : Word := 0
deriving DecidableEq, Repr

/-- An accepted scheduled command (R223 to R226): its line time, kind, channels, tag, command word and reserved power. -/
structure Sched where
  lt   : Nat
  kind : Nat
  chan : Fin 24
  tag  : Nat
  cmd  : Word
  pwr  : Int
  safe : Bool := false
deriving DecidableEq, Repr

/-- The program store, image slots and schedule of one bank beyond their registers, and the levels of its lands. -/
structure Sequencer where
  commit   : Option Word := none
  pending  : List Sched := []
  prevSch  : List (Nat × Nat) := []
  eccWords : List Nat := []
  badSegs  : List Nat := []
  waveLog  : List (Nat × Nat × Nat) := []
  bfltAt   : Option Nat := none
  bkenAt   : Option Nat := none
  fltLow   : Option Nat := none
  enWas    : Bool := false
  endlyAt  : Option Nat := none
  restOk   : Bool := false
  restHeld : Bool := false
  wakeAt   : Option Nat := none
  ocvAt    : Nat := 0
deriving DecidableEq, Repr

/-! ### Capture, triggers and Moulds (R227 to R250) -/

/-- The state of a channel's capture (R231). -/
inductive CapState where
  | idle | primed | armed | filling | done
deriving DecidableEq, Repr

/-- A trigger slot as TRIGC sets it (R235) and what it has seen since it became live: the samples of its history (counted to 2, and
2 for a slot live from the arm instant), whether a level slot is primed for a rise and for a fall, the instant a time slot waits for, the last value a charge slot compared and whether a clear lies since, and
when a charge or event slot was first met. Instants are in elapsed taps. -/
structure TrigSlot where
  kind   : Nat
  op     : Nat
  wa     : Int
  wb     : Int
  edge   : Nat
  code   : Nat
  live   : Bool := false
  age    : Nat := 2
  readyR : Bool := false
  readyF : Bool := false
  timeAt : Option Nat := none
  prevY  : Option Int := none
  clrd   : Bool := false
  met    : Option Nat := none
deriving DecidableEq, Repr

/-- The anchor of a fired capture (R236, R239): the trigger sample's number, the instant in elapsed taps and as a TS, F, the
origin's device and channel, the cause bits of the record, its primary source, the violating Mould and bound, and the step
counter at the trigger. -/
structure Anchor where
  k      : Int
  at_    : Int
  ts     : TS
  f      : Nat
  origin : Nat
  ochan  : Nat
  cause  : Nat
  psrc   : Nat
  mould  : Nat
  mbound : Nat
  step   : Nat
deriving DecidableEq, Repr

/-- One capture sample in Autis units (R230, R235). -/
structure CapSample where
  k : Int
  v : Int
  i : Int
deriving DecidableEq, Repr

/-- Test state of one bound Mould (R246): consecutive violations of the upper and the lower bound, and the last charge
multiple and V of a DVDQ Mould. -/
structure MouldRun where
  up   : Nat := 0
  lo   : Nat := 0
  mult : Option (Nat × Option Int) := none
deriving DecidableEq, Repr

/-- A Mould violation that has been counted and not yet taken (R248): the binding it violated, the bound, and the step counter of its
step. -/
structure Violation where
  bind  : Binding
  lower : Bool
  step  : Nat
deriving DecidableEq, Repr

/-- A condition that has been met and not yet decided (R237): its primary source (0 to 3 a slot, 4 a Mould, 6 the host), its class
in the order of R237, the trigger sample `k` with fraction `f`, and the violating Mould and bound. -/
structure Fire where
  psrc   : Nat
  cls    : Nat
  k      : Int
  f      : Nat
  mould  : Nat := 255
  mbound : Nat := 255
deriving DecidableEq, Repr

/-- The capture of one channel beyond its registers (R227 to R242): its state, the decimator and its outputs, the arm in hand, the
ring, the last stored samples that reached full scale of V and of I, the trigger slots, the final anchor and the settle window, and the
runs of its Mould tests. Sample numbers count the
outputs of the decimator at its ratio; `At` instants are in elapsed taps. -/
structure Capture where
  st       : CapState := .idle
  ratio    : Nat := 40
  hist     : List (Int × Int × Int × Int) := []
  outNo    : Int := 0
  outAt    : Nat := 0
  outTs    : TS := 0
  last     : Option CapSample := none
  prev     : Option CapSample := none
  armAt    : Option Nat := none
  armGrp   : Option Nat := none
  groupArm : Option Nat := none
  firstAt  : Nat := 0
  firstK   : Option Int := none
  lastK    : Int := 0
  pre      : Nat := 0
  post     : Nat := 1
  group    : Nat := 0
  slgrp    : Nat := 0
  master   : Bool := false
  slots    : List (Option TrigSlot) := [none, none, none, none]
  fires    : List Fire := []
  anchor   : Option Anchor := none
  settle   : Option Nat := none
  ign      : Nat := 0
  ovrV     : Option Int := none
  ovrI     : Option Int := none
  late     : Bool := false
  hostReq  : Option Nat := none
  qAt      : List (Nat × Int) := []
  runs     : List MouldRun := [{}, {}, {}, {}]
  viols    : List Violation := []
  steps    : List (Nat × Nat) := []
deriving DecidableEq, Repr

/-! ### Impedance and pulse tests (R251 to R269) and Colophons (R392 to R396) -/

/-- A filtered sample of an EIS window or a PULSE step: its instant in taps after the step's start boundary, V and I, and
whether a modulator sample of its averaging window reached full scale. -/
structure EisSample where
  off : Int
  v   : Int
  i   : Int
  ovr : Bool
deriving DecidableEq, Repr

/-- The EIS engine of one channel: the start boundary, the phase origin T0 (R253), the samples taken, the instants of the
pulse command and of the end command (R263), the flags gathered as R132 numbers them (bit 16 LIMIT), whether the
results are ready (R254), the span whose flags and bands an EIS step gathers (its measurement window; none gathers throughout), the
bank's bands in that span (R259), and when a limit stage was first seen from the pulse command on, in taps from the start boundary (R268). -/
structure EisRun where
  base  : TS := 0
  t0    : TS := 0
  smp   : List EisSample := []
  cAt   : Option TS := none
  eAt   : Option TS := none
  fl    : Nat := 0
  ready : Bool := false
  span  : Option (TS × TS) := none
  bands : List Nat := []
  limAt : Option Int := none
deriving DecidableEq, Repr

/-- An open Colophon (R392): what it took at its opening, and what the run has entered since. -/
structure Colo where
  slot  : Nat
  entry : Nat
  flev  : Nat
  rdig  : List Byte
  cell  : List Word
  ots   : TS
  olt   : Nat
  q0    : Int
  e0    : Int
  cdig  : Nat
  zres  : List (List Byte)
  pres  : List (List Byte)
  nx    : Nat
  steps : Nat
  flags : Nat
  tmax  : Option Int
deriving DecidableEq, Repr

/-! ### The power ledger and resting banks (R270 to R286) -/

/-- A request in the deferral queue (R275): its channel, declared power p and bus power b, the instant of the request in
elapsed taps, the boundaries it has waited, its deferral limit, and whether it was admitted with a partner. -/
structure LedReq where
  chan   : Chan
  p      : Int
  b      : Int
  at_    : Nat
  cyc    : Nat
  lim    : Nat
  paired : Bool
deriving DecidableEq, Repr

/-- What a ledger record gathers over its interval (R279): cycles and their taps, energies in the integrators' units,
the largest C, and counts. -/
structure LedIval where
  cycles : Nat := 0
  taps   : Nat := 0
  net    : Int := 0
  imp    : Int := 0
  exp    : Int := 0
  cmax   : Int := 0
  nadm   : Nat := 0
  nto    : Nat := 0
  fl     : Nat := 0
deriving DecidableEq, Repr

/-- A ledger record that is due, with the values just before its end boundary (R279). -/
structure LedDue where
  ts     : TS
  iv     : LedIval
  cend   : Int
  limi   : Nat
  limx   : Nat
  nq     : Nat
  pstate : Nat
deriving DecidableEq, Repr

/-- The power ledger beyond its registers: the settings in effect (R277), the deferral queue, requests admitted from it that
wait to start, requests past their limit, the bus powers of admitted steps and of standing reservations, each channel's
energy integrator at the start of the cycle, the running record interval, the run of R280, and of the latest instant at which anything
of this happened, what stood before it: the instant, C, the requests in the queue and the power states (R279). -/
structure LedgerSt where
  en       : Bool := false
  limI     : Nat := 0
  limX     : Nat := 0
  etaC     : Nat := 1024
  etaD     : Nat := 1024
  queue    : List LedReq := []
  granted  : List LedReq := []
  expired  : List LedReq := []
  admitted : List (Chan × Int) := []
  standing : List (Chan × Int) := []
  e0       : Vector Int 192 := Vector.replicate 192 0
  iv       : LedIval := {}
  recN     : Nat := 1
  due      : Option LedDue := none
  seq      : Word := 0
  lost     : Nat := 0
  run      : Nat := 0
  frzSign  : Int := 0
  overDue  : Bool := false
  before   : Option (Nat × Int × Nat × Nat) := none
deriving DecidableEq, Repr

/-! ### The Catalogue, temperature and Patina (R354 to R380) -/

/-- A shunt command that is being written (R361): the channel and the four data words of its entry, or none to erase it. -/
structure ShuntWrite where
  chan : Chan
  data : Option (List Word)
deriving DecidableEq, Repr

/-- An external calibration that runs (R364): its die, its phase, when the phase began in elapsed taps, the banks that take part and the
channels that phase 2 has cross-checked. -/
structure CalRun where
  die   : Nat
  phase : Nat
  at_   : Nat
  banks : List Nat
  seen  : List Nat
deriving DecidableEq, Repr

/-- The Catalogue and the Patina store in MRAM as words, in two copies each (R354, R380), and what Patina holds beside them: turns
completed by each pair and the operating seconds of its last handback, the newest measured table of each line (R375), the rms
spreads of lines 384 to 389 in 1/256 tap; at the last recomputation (R379) the square of u_ref of each die in (0.01 ppm)² times
31,536,000, the operating seconds and a draw number for the rounding of what is shown; and the operating seconds of each die's last
external calibration, with whether it was made in the field (R376). -/
structure CatSt where
  a      : SMap Word := []
  b      : SMap Word := []
  pa     : SMap Word := []
  pb     : SMap Word := []
  turns  : SMap Word := []
  hand   : SMap Word := []
  shWr   : Option ShuntWrite := none
  cal    : Option CalRun := none
  tables : List (Nat × List Byte) := []
  spread : List Nat := [0, 0, 0, 0, 0, 0]
  uref0  : Nat := 0
  uref1  : Nat := 0
  outAt  : Nat := 0
  draw   : Nat := 0
  refAt  : List (Nat × Bool) := []
deriving DecidableEq, Repr

/-- The thermal model (R367 to R371): the thirty pole states in 10^-7 K times 2^64, TREF and the node temperatures in 10^-7 °C,
how many checks in a row each sensor has failed, and whether the nodes have taken their first bands. -/
structure ThmSt where
  poles  : List Int := List.replicate 30 0
  tref   : Int := 0
  tj     : List Int := List.replicate 10 0
  fails  : List Nat := List.replicate 12 0
  banded : Bool := false
deriving DecidableEq, Repr

/-- What Patina holds of a channel's switch timing (R375, R377, R380): the rms spreads of its edge-placing line and its TDC line in
1/256 tap, the mean soft delays A to B and B to A of the baseline interval and of the newest one, the delays gathered since, and
the dead-time guard that GUARD moves towards (R366). -/
structure Timing where
  spreadE : Nat := 0
  spreadT : Nat := 0
  base    : Option (Nat × Nat) := none
  cur     : Nat × Nat := (0, 0)
  sumAB   : Nat := 0
  nAB     : Nat := 0
  sumBA   : Nat := 0
  nBA     : Nat := 0
  guard   : Nat := 1023
deriving DecidableEq, Repr

/-- The comparators of a channel beyond their registers (R289): the trim word the Catalogue and Patina ask for, the offsets of the
three effective thresholds from their codes in 1/16 code and the guard in force, when they last moved, and the offsets seen at
the last 64 transitions of each comparator in 1/65536 code (R375); when they were powered while VALID waits for first decisions, and
the sampled decisions since (R295); and the output bits before the instant, in elapsed taps, at which they last changed (R178). -/
structure CmpSt where
  tgt   : Word := 0x3F000000
  ov    : Int := -63
  uv    : Int := 63
  oc    : Int := -63
  guard : Int := 63
  at_   : Nat := 0
  seen  : List (List Int) := [[], [], []]
  ofs   : List Int := [0, 0, 0]
  onAt  : Option Nat := none
  dec   : Nat := 0
  was   : Option (Nat × Nat) := none
deriving DecidableEq, Repr

/-- The comparators of a bank beyond their registers: the CK_TICK divider in force, the tick in periods at which a newly written one
takes its place, and that one (R292), and the self-checks that run: when each began and its mask (R304). -/
structure CmpBank where
  div    : Nat := 1
  next : Option (Nat × Nat) := none
  schk   : List (Nat × Nat) := []
deriving DecidableEq, Repr

/-- The host copy of a channel TDC beyond its registers (R163, R164, R167): its queue, drops, a pending overflow mark, the stamps
inside the gate since it opened, and the step window they belong to. -/
structure ChanTdc where
  queue : List TdcEntry := []
  drop  : Nat := 0
  ovf   : Bool := false
  cnt   : Nat := 0
  key   : Nat := 0
  steps : Windows := {}
deriving DecidableEq, Repr

/-! ### Security (R381 to R396) -/

/-- A firmware image slot in MRAM (R384, R387): its words, over the factory image or over zeros once it has been erased. -/
structure ImgSlot where
  erased : Bool := false
  words  : SMap Word := []
deriving DecidableEq, Repr

/-- A signed Colophon in the store (R396): its SEQ, its words and when it was last sent, in elapsed taps. -/
structure ColoHeld where
  seq    : Word
  words  : List Word
  sentAt : Nat
deriving DecidableEq, Repr

/-- A Colophon body that has arrived at HD and waits to be signed (R395). -/
structure Body where
  chan  : Chan
  bytes : List Byte
deriving DecidableEq, Repr

/-- The security block beyond its registers: the image slots, bodies to be signed, the Colophon store, attestation
requests in order of arrival with their ports, and the VERIFY requests that run. -/
structure SecSt where
  slots   : Vector ImgSlot 4 := Vector.replicate 4 {}
  bodies  : List Body := []
  store   : List ColoHeld := []
  attests : List (Side × SlFrame) := []
  verify  : List (Side × SlFrame) := []
deriving DecidableEq, Repr
/-! ### The whole device -/

/-- One channel. -/
structure ChanSt where
  force : Force := {}
  meas  : Meas := {}
  mach  : Mach := {}
  cap   : Capture := {}
  eis   : EisRun := {}
  colo  : Option Colo := none
  tim   : Timing := {}
  cmp   : CmpSt := {}
  tdc   : ChanTdc := {}
deriving DecidableEq, Repr

/-- One bank. -/
structure BankSt where
  rot : Rotation := {}
  seq : Sequencer := {}
  cmp : CmpBank := {}
deriving DecidableEq, Repr

/-- Everything but the bank memories and the queue of commands. `regs` holds the registers that store their own value,
keyed by block and offset, where an unlisted one has its reset value; `unlocked` the blocks whose lock is open (R48);
`seen` the status registers read since their accession number advanced (R54); `advanced` those whose accession number advanced in
the present cycle of their register clock (R53, R442), and of that cycle `acc` the ports that have made an access, `wrote` the RW
bits that ports have written and `cleared` the bits that a protective clear has taken (R47), as register keys with masks; `written` the write-once registers already
written (R49); `live` the contained and fatal conditions present now (R335). `refLoad` names the analog dies whose reference outputs carry too heavy
a load (R428). `free` counts the free values drawn. -/
structure Dev where
  regs     : SMap Word := []
  unlocked : List Nat := []
  seen     : List Nat := []
  advanced : List Nat := []
  acc      : List Nat := []
  wrote    : List (Nat × Nat) := []
  cleared  : List (Nat × Nat) := []
  written  : List Nat := []
  live     : List CauseIn := []
  mirror   : SMap Word := []
  ports    : Vector PortSt 4 := Vector.replicate 4 {}
  msp      : Msp := {}
  tb       : TimeBase := {}
  xc       : Crossing := {}
  sl       : ShelfLink := {}
  pwr      : Power := {}
  folio    : Folio := {}
  led      : LedgerSt := {}
  cat      : CatSt := {}
  thm      : ThmSt := {}
  sec      : SecSt := {}
  chans    : Vector ChanSt 192 := Vector.replicate 192 {}
  banks    : Vector BankSt 8 := Vector.replicate 8 {}
  gtPulse  : Vector Nat 8 := Vector.replicate 8 0
  gtRemote : List Nat := []
  gtWin    : List Windows := List.replicate 8 {}
  trigOut  : List OutHigh := []
  refLoad  : List Nat := []
  free     : Nat := 0
deriving DecidableEq, Repr

/-- The machine: the device, its bank memories and the queue of waiting commands, first in, first out. -/
structure State where
  dev     : Dev := {}
  mem     : Mem := []
  pending : List Instr := []
deriving DecidableEq, Repr

/-- Why a step stops. No command of this block stops: the type has no constructor, so a fault never happens. -/
inductive Fault where
deriving DecidableEq, Repr

/-- Why a command has no meaning in the model. -/
inductive Refusal where
  /-- A command that the model has no meaning for yet; raised by the dispatcher only. Safe: the machine stops. -/
  | notModelled (mnemonic : String)
deriving DecidableEq, Repr

/-- The machine right after reset, before the host side starts (R403): registers at their reset values (those with a
named source at the value the log names), memories zeroed (R408), no command waiting. -/
def State.reset : State := {}

end Sys2Proof.Machine
end

