-- ==== Sys2Proof/Machine/RegTable.lean ====
section
/-! DEFINITION. The register map (R438, R439, R441): which offsets of each block hold a register, the access code of each of its bits (R6), which fields are configuration fields (R50), and its reset value (R8). -/

namespace Sys2Proof.Machine

open Sys2Proof

/-- A register row: offset, array stride and count, reset value and its step along the array, and the masks of its RW, WK,
W1, RA and WO fields and of its configuration fields. `lo64` marks the low word of a 64-bit value (R43). Bits in no mask
are RO or reserved. -/
structure RegDef where
  off    : Nat
  stride : Nat := 4
  count  : Nat := 1
  rst    : Nat := 0
  rstep  : Nat := 0
  rw     : Nat := 0
  wk     : Nat := 0
  w1     : Nat := 0
  ra     : Nat := 0
  wo     : Nat := 0
  cfg    : Nat := 0
  lo64   : Bool := false
deriving DecidableEq, Repr

/-- All 32 bits of a register. -/
abbrev allBits : Nat := 0xFFFFFFFF

/-- The registers every block holds (R39, R335). -/
def commonRegs : List RegDef :=
  [ { off := 0x0FC0, ra := 0xF }, { off := 0x0FC4 }, { off := 0x0FC8 }, { off := 0x0FCC, count := 2 },
    { off := 0x0FD4, lo64 := true }, { off := 0x0FD8 }, { off := 0x0FDC }, { off := 0x0FE0, rst := 0x10C, rw := 0x30F },
    { off := 0x0FF0, ra := 0x7 }, { off := 0x0FF4, count := 2 }, { off := 0x0FFC, wo := allBits } ]

/-- The registers of the LED and MSP blocks at the same offsets: their fault registers read 0 (R343). -/
def commonRegsNoFault : List RegDef :=
  [ { off := 0x0FC0, count := 9 },
    { off := 0x0FF0, ra := 0x7 }, { off := 0x0FF4, count := 2 }, { off := 0x0FFC, wo := allBits } ]

/-- DEV (ch. Power-up, reset and first use). DEV_VER.FWMIN and DEV_RCAUSE come from firmware: 0 before the first start. -/
def devRegs : List RegDef :=
  [ { off := 0x00, rst := 0x4B560192 }, { off := 0x04, rst := 0xB0020032 }, { off := 0x08, ra := 0xE }, { off := 0x0C },
    { off := 0x10, wk := 0x1 }, { off := 0x14 } ]

/-- XC (ch. Module architecture). -/
def xcRegs : List RegDef :=
  [ { off := 0x00, ra := 0xFE }, { off := 0x04, rst := 0x2710, wk := 0xFFFF }, { off := 0x08, rst := 0xFFFF },
    { off := 0x0C, count := 5 } ]

/-- TB (ch. Line time, timestamps and interval measurement). -/
def tbRegs : List RegDef :=
  [ { off := 0x00, rw := 0xF, cfg := 0xE }, { off := 0x04, rst := 0x10000, ra := 0xFE },
    { off := 0x08, lo64 := true }, { off := 0x0C }, { off := 0x10, lo64 := true }, { off := 0x14 },
    { off := 0x18, rst := 0xC350, rw := allBits }, { off := 0x1C, rst := 0x7A120000 }, { off := 0x20, rw := allBits },
    { off := 0x24, count := 2 }, { off := 0x2C, rw := allBits },
    { off := 0x30, wk := allBits, lo64 := true }, { off := 0x34, wk := allBits },
    { off := 0x38, rst := 0x14, rw := 0x31F, cfg := 0x100 }, { off := 0x3C, count := 3 },
    { off := 0x48, rw := 0xFFFF, wo := 0x80000000 }, { off := 0x4C }, { off := 0x50, rw := 0xFF, cfg := 0xFF },
    { off := 0x100, stride := 0x20, count := 4, rst := 0x10, rw := 0xFF0F33, cfg := 0xFF0F32 },
    { off := 0x104, stride := 0x20, count := 4 }, { off := 0x110, stride := 0x20, count := 4 },
    { off := 0x114, stride := 0x20, count := 4 }, { off := 0x118, stride := 0x20, count := 4 },
    { off := 0x11C, stride := 0x20, count := 4 } ]

/-- SL (ch. Shelf Link). SL_VER.VMIN and FWMIN come from firmware and SL_ROLE from the strap: 0 before the first start. -/
def slRegs : List RegDef :=
  [ { off := 0x00, rst := 0x3, rw := 0x3 }, { off := 0x04, ra := 0xFF }, { off := 0x08 }, { off := 0x0C },
    { off := 0x10, w1 := 0xF }, { off := 0x14, rst := 0x30020002 }, { off := 0x18, rst := 0x20, rw := 0x7F },
    { off := 0x1C, rst := 0x2, rw := 0xFFFF }, { off := 0x20, rw := 0xFFFF }, { off := 0x24, count := 2 },
    { off := 0x40, count := 8, rw := 0x800000FF }, { off := 0x60, count := 3 } ]

/-- MSP (ch. Register conventions and the management serial port). -/
def mspRegs : List RegDef :=
  [ { off := 0x00, rst := 0x120, rw := 0x13F }, { off := 0x04, rst := 0x80 }, { off := 0x08 },
    { off := 0x0C, rw := allBits }, { off := 0x10, rw := allBits } ]

/-- SEC (ch. Identity, signed firmware and Colophons). -/
def secRegs : List RegDef :=
  [ { off := 0x00, ra := 0x1F }, { off := 0x04, count := 2 }, { off := 0x0C, wk := 0x1 }, { off := 0x10, wk := 0x31 }, { off := 0x14 },
    { off := 0x18, lo64 := true }, { off := 0x1C }, { off := 0x20, count := 4 }, { off := 0x30, count := 4 },
    { off := 0x40, rw := 0xFF }, { off := 0x44 }, { off := 0x48 }, { off := 0x4C, wo := allBits }, { off := 0x50 },
    { off := 0x2000, count := 1536 } ]

/-- FOL (ch. Faults and the Folio). -/
def folRegs : List RegDef :=
  [ { off := 0x00, rw := 0x3, wk := 0x300 }, { off := 0x04, ra := 0xF }, { off := 0x08, rw := allBits },
    { off := 0x0C, count := 5 }, { off := 0x20, count := 8 }, { off := 0x40, rw := 0x3F1F }, { off := 0x60, count := 8 },
    { off := 0x100, count := 64, rw := 0xBF00FFFF, cfg := 0x3F00FFFF },
    { off := 0x200, count := 64, rw := allBits, cfg := allBits } ]

/-- CAT (ch. Calibration, temperature and ageing). -/
def catRegs : List RegDef :=
  [ { off := 0x00, rst := 0x30000, ra := 0x3F }, { off := 0x04 }, { off := 0x08, lo64 := true }, { off := 0x0C, count := 4 },
    { off := 0x20, count := 4, wk := allBits }, { off := 0x30, wk := 0x103 }, { off := 0x34 },
    { off := 0x40, count := 3, rw := allBits }, { off := 0x4C, wk := 0xFF0103 }, { off := 0x60, rw := allBits },
    { off := 0x64, count := 4 } ]

/-- THM (ch. Calibration, temperature and ageing). -/
def thmRegs : List RegDef :=
  [ { off := 0x00, ra := 0x7 }, { off := 0x04 }, { off := 0x08, rst := 0xFFF }, { off := 0x0C, wk := 0xFFF },
    { off := 0x10, count := 10 }, { off := 0x40, count := 12 }, { off := 0x80, count := 10 }, { off := 0xC0, count := 2 } ]

/-- LED (ch. The power ledger and resting cells). -/
def ledRegs : List RegDef :=
  [ { off := 0x00, rst := 0x2, rw := 0x7, cfg := 0x6 }, { off := 0x04, ra := 0x1E },
    { off := 0x08, count := 2, rw := allBits }, { off := 0x10, rst := 0x04000400, rw := 0x07FF07FF, cfg := 0x07FF07FF },
    { off := 0x14, rst := 0x1, rw := 0x800000FF }, { off := 0x18, lo64 := true }, { off := 0x1C }, { off := 0x20, count := 5 },
    { off := 0x40, count := 8, rw := 0xFFFFFF } ]

/-- BK (ch. Autis; ch. Steps, waveforms, streaming and admission). 0x0300 to 0x031C are banked per port (R223). -/
def bkRegs : List RegDef :=
  [ { off := 0x100, wo := allBits }, { off := 0x104 }, { off := 0x108, rst := 0x2 },
    { off := 0x140, stride := 8, count := 16 }, { off := 0x144, stride := 8, count := 16 },
    { off := 0x200, rw := 0x1FFF, cfg := 0x1FFF }, { off := 0x204, count := 2 },
    { off := 0x240, count := 16, rst := 0x1, rw := 0xC0FFFFFF, cfg := 0x40FFFFFF },
    { off := 0x300, rw := allBits, lo64 := true }, { off := 0x304, count := 4, rw := allBits }, { off := 0x314, rw := 0xFF },
    { off := 0x318, wo := 0x1 }, { off := 0x31C, count := 4 } ]

/-- LOOP (ch. The force path). -/
def loopRegs : List RegDef :=
  [ { off := 0x00, rw := 0x1 }, { off := 0x04, ra := 0x7 }, { off := 0x08, rst := 0x3E8, rw := 0xFFFF, cfg := 0xFFFF },
    { off := 0x0C, rst := 0x4, rw := 0xFF, cfg := 0xFF }, { off := 0x10, rw := 0xFFFF },
    { off := 0x100, count := 24, rst := 0x1F0000, rw := 0xFF00000F, cfg := 0xFF000000 } ]

/-- CAP (ch. Capture, triggers and Moulds). -/
def capRegs : List RegDef :=
  [ { off := 0x00, ra := 0x3 }, { off := 0x04, rst := 0x14, rw := 0xFFFF }, { off := 0x08, rst := 0x10 },
    { off := 0x100, stride := 0x20, count := 24, rst := 0x80000028, rw := 0x80FFFFFF, cfg := 0x80FFFFFF },
    { off := 0x104, stride := 0x20, count := 24, rst := 0x002A0000, rstep := 0x2A, rw := 0x07FF03FF, cfg := 0x07FF03FF },
    { off := 0x108, stride := 0x20, count := 24, ra := 0x7F }, { off := 0x10C, stride := 0x20, count := 24, wo := 0x3 },
    { off := 0x110, stride := 0x20, count := 24 }, { off := 0x114, stride := 0x20, count := 24 },
    { off := 0x118, stride := 0x20, count := 24, lo64 := true }, { off := 0x11C, stride := 0x20, count := 24 } ]

/-- MLD (ch. Capture, triggers and Moulds). -/
def mldRegs : List RegDef :=
  [ { off := 0x00, ra := 0x1E }, { off := 0x08 }, { off := 0x100, count := 16, rw := 0xFFFF7F7F, cfg := 0x7FFF7F7F },
    { off := 0x200, count := 24 }, { off := 0x280, count := 24 },
    { off := 0x300, count := 24, rw := 0xC0FFFFFF, cfg := 0x40FFFFFF } ]

/-- The eight tone words of each EIS profile: T(n)A at +0x10 + 8n and T(n)B at +0x14 + 8n. -/
def eisToneRegs : List RegDef :=
  (List.range 16).map fun i => { off := 0x110 + 4 * i, stride := 0x80, count := 16, rw := allBits, cfg := allBits }

/-- EIS (ch. Impedance spectroscopy and pulse resistance). -/
def eisRegs : List RegDef :=
  [ { off := 0x00, ra := 0x3 }, { off := 0x04, count := 2 },
    { off := 0x100, stride := 0x80, count := 16, rw := 0xF37FFFFF, cfg := 0x737FFFFF },
    { off := 0x104, stride := 0x80, count := 16, rw := allBits, cfg := allBits },
    { off := 0x108, stride := 0x80, count := 16, rw := allBits, cfg := allBits } ] ++ eisToneRegs ++
  [ { off := 0x900, stride := 0x20, count := 16, rw := 0x837FFFFF, cfg := 0x037FFFFF },
    { off := 0x904, stride := 0x20, count := 16, rw := allBits, cfg := allBits },
    { off := 0x908, stride := 0x20, count := 16, rw := 0xFFFFF, cfg := 0xFFFFF },
    { off := 0x90C, stride := 0x20, count := 16, rw := allBits, cfg := allBits },
    { off := 0x910, stride := 0x20, count := 16, rw := allBits, cfg := allBits },
    { off := 0x914, stride := 0x20, count := 16, rw := allBits, cfg := allBits },
    { off := 0x918, stride := 0x20, count := 16, rw := allBits, cfg := allBits },
    { off := 0x91C, stride := 0x20, count := 16, rw := allBits, cfg := allBits },
    { off := 0xC00, count := 24, ra := 0x3F } ]

/-- CMP (ch. Protection, comparators and the interlock). CMP_TRIMc comes from the Catalogue: trims 0 and the widest guard
while it holds no entry (R358). -/
def cmpRegs : List RegDef :=
  [ { off := 0x00, rw := 0x1 }, { off := 0x04, rst := 0x1, rw := 0xFFFF }, { off := 0x08, ra := 0x1 },
    { off := 0x0C, wo := 0xFFFFFF }, { off := 0x10 },
    { off := 0x100, stride := 0x20, count := 24, rst := 0x10818, rw := 0xFFC1E, cfg := 0xFFC1E },
    { off := 0x104, stride := 0x20, count := 24, rst := 0x03FF0000, rw := 0x03FF03FF },
    { off := 0x108, stride := 0x20, count := 24, rst := 0x3FF, rw := 0x3FF },
    { off := 0x10C, stride := 0x20, count := 24, rst := 0xA0000, ra := 0x3F },
    { off := 0x110, stride := 0x20, count := 24, rw := 0x3F },
    { off := 0x114, stride := 0x20, count := 24, lo64 := true }, { off := 0x118, stride := 0x20, count := 24 },
    { off := 0x11C, stride := 0x20, count := 24, rst := 0x3F000000 } ]

/-- RSV (ch. The measurement path). -/
def rsvRegs : List RegDef :=
  [ { off := 0x00, rst := 0x1, rw := 0x3, cfg := 0x2 }, { off := 0x04, rst := 0x00F80000, ra := 0x1F },
    { off := 0x08, rst := 0x1F }, { off := 0x0C, count := 4 } ]

/-- TDC (ch. Line time). TDC_CCFG16 to TDC_CCFG23 share their offsets with TDC_CLVL0 to TDC_CLVL7; the table gives the
writable register and `liveReg` says what a read gives. -/
def tdcRegs : List RegDef :=
  [ { off := 0x00, ra := 0xFFFFFF }, { off := 0x04, count := 2 },
    { off := 0x40, count := 24, rst := 0x18, rw := 0xFFFF03F9, cfg := 0xFFFF03F8 }, { off := 0xA0, count := 16 },
    { off := 0x100, stride := 0x10, count := 24 }, { off := 0x104, stride := 0x10, count := 24 },
    { off := 0x108, stride := 0x10, count := 24 }, { off := 0x10C, stride := 0x10, count := 24 } ]

/-- A channel window (ch. The force path, The measurement path, Autis, Steps, The power ledger, Colophons). CH_DT_TGT.GUARD
and CH_SHUNT come from the Catalogue: the widest guard and no shunt while it holds no entry (R104, R358). -/
def chRegs : List RegDef :=
  [ { off := 0x00, rw := 0x13, cfg := 0x12 }, { off := 0x04, rst := 0x40000, ra := 0xFF },
    { off := 0x08, rst := 0x19000, rw := 0x1FFFFF, cfg := 0x1FFFFF }, { off := 0x0C, rw := 0x1FFFFF, cfg := 0x1FFFFF },
    { off := 0x10, rst := 0x03FF0100, rw := 0xFFF, cfg := 0xFFF },
    { off := 0x14, rst := 0x28000400, rw := allBits, cfg := allBits },
    { off := 0x18, rst := 0x28002800 }, { off := 0x1C, rst := allBits }, { off := 0x20, rst := 0x800, rw := 0xFFFF, cfg := 0xFFFF },
    { off := 0x24, count := 2 }, { off := 0x2C, rst := 0x100, rw := 0x107, cfg := 0x107 },
    { off := 0x30, rst := 0x01000000, rw := allBits }, { off := 0x34, rst := 0x40000, rw := allBits },
    { off := 0x38, rst := 0x01000000, rw := allBits }, { off := 0x3C, rst := 0x10000, rw := allBits },
    { off := 0x40, rst := 0xA, rw := 0xFFFF },
    { off := 0x50, rw := 0x33, cfg := 0x33 }, { off := 0x54, rst := 0x2710, rw := 0xFFFFFF, cfg := 0xFFFFFF },
    { off := 0x58, rst := 0x5, rw := 0xC000FFFF }, { off := 0x5C, rst := 0xA00, rw := 0xFF03 },
    { off := 0x60, rst := 0x0D6B03E8, rw := allBits }, { off := 0x64, rst := 0x80000, ra := 0x3F }, { off := 0x68, count := 3 },
    { off := 0x74, rst := 0xFFFF8000 }, { off := 0x78, lo64 := true }, { off := 0x7C }, { off := 0x80, lo64 := true },
    { off := 0x84 }, { off := 0x88, wo := 0x1 }, { off := 0x8C }, { off := 0x90, rst := allBits }, { off := 0x94 },
    { off := 0x100, wo := allBits }, { off := 0x104, ra := 0x7E }, { off := 0x108, count := 3 }, { off := 0x114, wo := 0xFF },
    { off := 0x118 }, { off := 0x120, count := 8, rw := allBits }, { off := 0x140, count := 16 },
    { off := 0x180, rw := 0x1, wo := 0x2 }, { off := 0x184, ra := 0x7 },
    { off := 0x188, count := 2, rw := allBits, cfg := allBits }, { off := 0x190, count := 5 }, { off := 0x1A4, lo64 := true },
    { off := 0x1A8 }, { off := 0x1AC, rw := 0x3 }, { off := 0x1C0, count := 3 }, { off := 0x1E0, count := 8, rw := allBits } ]

/-- The registers of a block that only it holds (R441). -/
def ownRegs : Blk → List RegDef
  | .host .dev => devRegs
  | .host .xc => xcRegs
  | .host .tb => tbRegs
  | .host .sl => slRegs
  | .host .msp => mspRegs
  | .host .sec => secRegs
  | .host .fol => folRegs
  | .host .cat => catRegs
  | .host .thm => thmRegs
  | .host .led => ledRegs
  | .bank _ .bk => bkRegs
  | .bank _ .loop => loopRegs
  | .bank _ .cap => capRegs
  | .bank _ .mld => mldRegs
  | .bank _ .eis => eisRegs
  | .bank _ .cmp => cmpRegs
  | .bank _ .rsv => rsvRegs
  | .bank _ .tdc => tdcRegs
  | .chan _ => chRegs

/-- All registers of a block (R39, R335, R343, R441). -/
def regRows (k : Blk) : List RegDef :=
  ownRegs k ++ (if k = .host .led ∨ k = .host .msp then commonRegsNoFault else commonRegs)

/-- Whether a row holds the register at `off`, and at which index of the row's array. -/
def rowIdx (r : RegDef) (off : Nat) : Option Nat :=
  let i := (off - r.off) / r.stride
  if r.off ≤ off ∧ off = r.off + r.stride * i ∧ i < r.count then some i else none

/-- The row of the register at a normal offset of a block, with its index in the row's array (R41: none when the offset
holds no register). -/
def regAt (k : Blk) (off : Nat) : Option (RegDef × Nat) :=
  (regRows k).findSome? fun r => (rowIdx r off).map fun i => (r, i)

/-- The reset value of the register at an offset (R8). -/
def resetOf (k : Blk) (off : Nat) : Word :=
  match regAt k off with
  | some (r, i) => BitVec.ofNat 32 (r.rst + r.rstep * i)
  | none => 0

/-- A number for each block: host blocks 0 to 9, bank block n of bank b 10 + 8b + n, channel c 74 + c. -/
def blkIdx : Blk → Nat
  | .host h => match h with
    | .dev => 0 | .xc => 1 | .tb => 2 | .sl => 3 | .msp => 4 | .sec => 5 | .fol => 6 | .cat => 7 | .thm => 8 | .led => 9
  | .bank b k => 10 + 8 * b.val + match k with
    | .bk => 0 | .loop => 1 | .cap => 2 | .mld => 3 | .eis => 4 | .cmp => 5 | .rsv => 6 | .tdc => 7
  | .chan c => 74 + c.val

/-- The block with a given number. -/
def blkOfIdx (n : Nat) : Blk :=
  if n < 10 then
    .host (match n with
      | 0 => .dev | 1 => .xc | 2 => .tb | 3 => .sl | 4 => .msp | 5 => .sec | 6 => .fol | 7 => .cat | 8 => .thm | _ => .led)
  else if n < 74 then
    .bank ⟨(n - 10) / 8 % 8, by omega⟩ (match (n - 10) % 8 with
      | 0 => .bk | 1 => .loop | 2 => .cap | 3 => .mld | 4 => .eis | 5 => .cmp | 6 => .rsv | _ => .tdc)
  else .chan ⟨(n - 74) % 192, by omega⟩

/-- The key of a register in the register file. -/
def regKey (k : Blk) (off : Nat) : Nat := blkIdx k * 0x4000 + off % 0x4000

/-- What an unlisted register of the register file holds: its reset value. -/
def regDefault (key : Nat) : Word := resetOf (blkOfIdx (key / 0x4000)) (key % 0x4000)

/-- The base address of a block (R438, R439). -/
def blkBase : Blk → Nat
  | .host h => blkIdx (.host h) * 0x10000
  | .bank b k => 0x01000000 + b.val * 0x00400000 + (blkIdx (.bank b k) - (10 + 8 * b.val)) * 0x10000
  | .chan c => 0x01000000 + c.val / 24 * 0x00400000 + 0x00100000 + c.val % 24 * 0x10000

/-- Whether a block lies on the field side, behind the crossing (R10). -/
def blkField : Blk → Bool
  | .host _ => false
  | .bank _ _ => true
  | .chan _ => true

end Sys2Proof.Machine
end

