-- ==== Sys2Proof/Machine/Names.lean ====
section
/-! DEFINITION. The offsets of the registers within their blocks, under the names of the register index (R441). An array's name is the offset of its element 0. -/

namespace Sys2Proof.Machine

abbrev DEV_ID : Nat := 0x0
abbrev DEV_VER : Nat := 0x4
abbrev DEV_STS : Nat := 0x8
abbrev DEV_RCAUSE : Nat := 0xC
abbrev DEV_CTL : Nat := 0x10
abbrev DEV_PWR : Nat := 0x14
abbrev XC_STS : Nat := 0x0
abbrev XC_AUTO : Nat := 0x4
abbrev XC_LANES : Nat := 0x8
abbrev XC_LAT : Nat := 0xC
abbrev XC_DISC_CNT : Nat := 0x10
abbrev XC_CRC_CNT : Nat := 0x14
abbrev XC_SPOOL_LVL : Nat := 0x18
abbrev XC_SPOOL_DROP : Nat := 0x1C
abbrev TB_CTL : Nat := 0x0
abbrev TB_STS : Nat := 0x4
abbrev TB_TS_LO : Nat := 0x8
abbrev TB_TS_HI : Nat := 0xC
abbrev TB_LT_LO : Nat := 0x10
abbrev TB_LT_HI : Nat := 0x14
abbrev TB_LINE_NOM : Nat := 0x18
abbrev TB_LINE_PER : Nat := 0x1C
abbrev TB_LINE_OFS : Nat := 0x20
abbrev TB_LINE_ERR : Nat := 0x24
abbrev TB_LINE_REJ : Nat := 0x28
abbrev TB_SKEW : Nat := 0x2C
abbrev TB_TSSET_LO : Nat := 0x30
abbrev TB_TSSET_HI : Nat := 0x34
abbrev TB_TSYNC_CFG : Nat := 0x38
abbrev TB_TOFS : Nat := 0x3C
abbrev TB_HOPDLY : Nat := 0x40
abbrev TB_ECHO_LAT : Nat := 0x44
abbrev TB_CAL : Nat := 0x48
abbrev TB_CALRES : Nat := 0x4C
abbrev TB_WRAPCNT : Nat := 0x50
abbrev SL_CTL : Nat := 0x0
abbrev SL_STS : Nat := 0x4
abbrev SL_ROLE : Nat := 0x8
abbrev SL_ADDR : Nat := 0xC
abbrev SL_RING : Nat := 0x10
abbrev SL_VER : Nat := 0x14
abbrev SL_SPLIT : Nat := 0x18
abbrev SL_RSVBW : Nat := 0x1C
abbrev SL_RCLS : Nat := 0x20
abbrev SL_NBR_U : Nat := 0x24
abbrev SL_NBR_D : Nat := 0x28
abbrev SL_CRC_CNT : Nat := 0x60
abbrev SL_RPL_CNT : Nat := 0x64
abbrev SL_DISC_CNT : Nat := 0x68
abbrev MSP_CFG : Nat := 0x0
abbrev MSP_FSTAT : Nat := 0x4
abbrev MSP_REJ_CNT : Nat := 0x8
abbrev MSP_XADDR : Nat := 0xC
abbrev MSP_XDATA : Nat := 0x10
abbrev SEC_STS : Nat := 0x0
abbrev SEC_BOOT : Nat := 0x4
abbrev SEC_ARB : Nat := 0x8
abbrev SEC_ARBCMT : Nat := 0xC
abbrev SEC_SWCMD : Nat := 0x10
abbrev SEC_SWRES : Nat := 0x14
abbrev SEC_SERIAL_LO : Nat := 0x18
abbrev SEC_SERIAL_HI : Nat := 0x1C
abbrev SEC_KEYFP : Nat := 0x20
abbrev SEC_SLOT : Nat := 0x30
abbrev SEC_CSEL : Nat := 0x40
abbrev SEC_CNEXT : Nat := 0x44
abbrev SEC_CLVL : Nat := 0x48
abbrev SEC_CACK : Nat := 0x4C
abbrev SEC_CDROP : Nat := 0x50
abbrev SEC_CWIN : Nat := 0x2000
abbrev FOL_CTL : Nat := 0x0
abbrev FOL_STS : Nat := 0x4
abbrev FOL_CUR : Nat := 0x8
abbrev FOL_OLD : Nat := 0xC
abbrev FOL_NEW : Nat := 0x10
abbrev FOL_GAPCNT : Nat := 0x14
abbrev FOL_OPSEC : Nat := 0x18
abbrev FOL_PCYC : Nat := 0x1C
abbrev FOL_WIN : Nat := 0x20
abbrev FOL_HCUR : Nat := 0x40
abbrev FOL_HWIN : Nat := 0x60
abbrev FOL_SRC : Nat := 0x100
abbrev FOL_SBASE : Nat := 0x200
abbrev CAT_STS : Nat := 0x0
abbrev CAT_COUNT : Nat := 0x4
abbrev CAT_LAST_LO : Nat := 0x8
abbrev CAT_LAST_HI : Nat := 0xC
abbrev CAT_LAST_OPSEC : Nat := 0x10
abbrev CAT_DUE_OPSEC : Nat := 0x14
abbrev CAT_DUE_DAYS : Nat := 0x18
abbrev CAT_REFV : Nat := 0x20
abbrev CAT_REFI : Nat := 0x24
abbrev CAT_CALCMD : Nat := 0x30
abbrev CAT_CALSTS : Nat := 0x34
abbrev CAT_SHR : Nat := 0x40
abbrev CAT_SHTC : Nat := 0x44
abbrev CAT_SHAUX : Nat := 0x48
abbrev CAT_SHCMD : Nat := 0x4C
abbrev CAT_PSEL : Nat := 0x60
abbrev CAT_PGAIN : Nat := 0x64
abbrev CAT_POFS : Nat := 0x68
abbrev CAT_PREF : Nat := 0x6C
abbrev THM_STS : Nat := 0x0
abbrev THM_BAND : Nat := 0x4
abbrev THM_SENSOK : Nat := 0x8
abbrev THM_SENSCTL : Nat := 0xC
abbrev THM_TJ : Nat := 0x10
abbrev THM_SENS : Nat := 0x40
abbrev THM_PWR : Nat := 0x80
abbrev THM_TREF : Nat := 0xC0
abbrev THM_SCRUB : Nat := 0xC4
abbrev LED_CTL : Nat := 0x0
abbrev LED_STS : Nat := 0x4
abbrev LED_IMP : Nat := 0x8
abbrev LED_EXP : Nat := 0xC
abbrev LED_ETA : Nat := 0x10
abbrev LED_RCFG : Nat := 0x14
abbrev LED_COMMIT_LO : Nat := 0x18
abbrev LED_COMMIT_HI : Nat := 0x1C
abbrev LED_NETP : Nat := 0x20
abbrev LED_QLVL : Nat := 0x24
abbrev LED_DEF_CNT : Nat := 0x28
abbrev LED_TO_CNT : Nat := 0x2C
abbrev LED_PSTATE : Nat := 0x30
abbrev LED_WAKE : Nat := 0x40
abbrev BK_PCTL : Nat := 0x100
abbrev BK_PSTS : Nat := 0x104
abbrev BK_FLEVEL : Nat := 0x108
abbrev BK_IMG_A : Nat := 0x140
abbrev BK_IMG_B : Nat := 0x144
abbrev BK_WDIR : Nat := 0x200
abbrev BK_WSTS : Nat := 0x204
abbrev BK_STRM_BAD : Nat := 0x208
abbrev BK_WTMR : Nat := 0x240
abbrev BK_SCH_LT_LO : Nat := 0x300
abbrev BK_SCH_LT_HI : Nat := 0x304
abbrev BK_SCH_MASK : Nat := 0x308
abbrev BK_SCH_CMD : Nat := 0x30C
abbrev BK_SCH_PWR : Nat := 0x310
abbrev BK_SCH_ARG : Nat := 0x314
abbrev BK_SCH_GO : Nat := 0x318
abbrev BK_SCH_RES : Nat := 0x31C
abbrev BK_SCH_MINLEAD : Nat := 0x320
abbrev BK_SCH_QLVL : Nat := 0x324
abbrev BK_SCH_DROP : Nat := 0x328
abbrev LOOP_CTL : Nat := 0x0
abbrev LOOP_STS : Nat := 0x4
abbrev LOOP_ENDLY : Nat := 0x8
abbrev LOOP_FLTCFG : Nat := 0xC
abbrev LOOP_VBUS : Nat := 0x10
abbrev LOOP_GRP : Nat := 0x100
abbrev CAP_STS : Nat := 0x0
abbrev CAP_GSETTLE : Nat := 0x4
abbrev CAP_FREE : Nat := 0x8
abbrev CAP_CCFG : Nat := 0x100
abbrev CAP_CALLOC : Nat := 0x104
abbrev CAP_CSTS : Nat := 0x108
abbrev CAP_CCMD : Nat := 0x10C
abbrev CAP_CPOS : Nat := 0x110
abbrev CAP_CKIDX : Nat := 0x114
abbrev CAP_CTTS_LO : Nat := 0x118
abbrev CAP_CTTS_HI : Nat := 0x11C
abbrev MLD_STS : Nat := 0x0
abbrev MLD_VIOL_CNT : Nat := 0x8
abbrev MLD_CFG : Nat := 0x100
abbrev MLD_BIND : Nat := 0x200
abbrev MLD_VIOL : Nat := 0x280
abbrev MLD_TR : Nat := 0x300
abbrev EIS_STS : Nat := 0x0
abbrev EIS_CNT : Nat := 0x4
abbrev PLS_CNT : Nat := 0x8
abbrev EIS_CFG0 : Nat := 0x100
abbrev EIS_CFG1 : Nat := 0x104
abbrev EIS_IDC : Nat := 0x108
abbrev EIS_TA : Nat := 0x110
abbrev EIS_TB : Nat := 0x114
abbrev PLS_CFG : Nat := 0x900
abbrev PLS_BASE : Nat := 0x904
abbrev PLS_TB : Nat := 0x908
abbrev PLS_REL : Nat := 0x90C
abbrev PLS_OFS : Nat := 0x910
abbrev EIS_CSTS : Nat := 0xC00
abbrev CMP_CTL : Nat := 0x0
abbrev CMP_TICK : Nat := 0x4
abbrev CMP_ILK : Nat := 0x8
abbrev CMP_SCHK : Nat := 0xC
abbrev CMP_SCRES : Nat := 0x10
abbrev CMP_CFG : Nat := 0x100
abbrev CMP_VTH : Nat := 0x104
abbrev CMP_ITH : Nat := 0x108
abbrev CMP_STS : Nat := 0x10C
abbrev CMP_IEN : Nat := 0x110
abbrev CMP_TS_LO : Nat := 0x114
abbrev CMP_TS_HI : Nat := 0x118
abbrev CMP_TRIM : Nat := 0x11C
abbrev RSV_CTL : Nat := 0x0
abbrev RSV_STS : Nat := 0x4
abbrev RSV_SUBST : Nat := 0x8
abbrev RSV_SKIP_CNT : Nat := 0xC
abbrev RSV_ROT_CNT : Nat := 0x10
abbrev RSV_DV : Nat := 0x14
abbrev RSV_DI : Nat := 0x18
abbrev TDC_STS : Nat := 0x0
abbrev TDC_CDCNT : Nat := 0x4
abbrev TDC_CDREJ : Nat := 0x8
abbrev TDC_CCFG : Nat := 0x40
abbrev TDC_CLVL : Nat := 0x80
abbrev TDC_CQ : Nat := 0x100
abbrev CH_CTRL : Nat := 0x0
abbrev CH_STS : Nat := 0x4
abbrev CH_PWM_PER : Nat := 0x8
abbrev CH_PWM_PH : Nat := 0xC
abbrev CH_DT_TGT : Nat := 0x10
abbrev CH_DT_LIM : Nat := 0x14
abbrev CH_DT_CMD : Nat := 0x18
abbrev CH_DT_MEAS : Nat := 0x1C
abbrev CH_TONMIN : Nat := 0x20
abbrev CH_DUTY : Nat := 0x24
abbrev CH_DAC : Nat := 0x28
abbrev CH_LOOPCFG : Nat := 0x2C
abbrev CH_KP_I : Nat := 0x30
abbrev CH_KI_I : Nat := 0x34
abbrev CH_KP_O : Nat := 0x38
abbrev CH_KI_O : Nat := 0x3C
abbrev CH_VGUARD : Nat := 0x40
abbrev CH_MCFG : Nat := 0x50
abbrev CH_MDEC : Nat := 0x54
abbrev CH_MREC : Nat := 0x58
abbrev CH_AUXCFG : Nat := 0x5C
abbrev CH_AUXNTC : Nat := 0x60
abbrev CH_MSTS : Nat := 0x64
abbrev CH_FAST : Nat := 0x68
abbrev CH_PV : Nat := 0x6C
abbrev CH_PI : Nat := 0x70
abbrev CH_T : Nat := 0x74
abbrev CH_Q_LO : Nat := 0x78
abbrev CH_Q_HI : Nat := 0x7C
abbrev CH_E_LO : Nat := 0x80
abbrev CH_E_HI : Nat := 0x84
abbrev CH_MCTL : Nat := 0x88
abbrev CH_SHUNT : Nat := 0x8C
abbrev CH_UNC : Nat := 0x90
abbrev CH_RECSEQ : Nat := 0x94
abbrev CH_ACTL : Nat := 0x100
abbrev CH_ASTS : Nat := 0x104
abbrev CH_APC : Nat := 0x108
abbrev CH_TERM : Nat := 0x10C
abbrev CH_AFAULT : Nat := 0x110
abbrev CH_AEV : Nat := 0x114
abbrev CH_AFLG : Nat := 0x118
abbrev CH_APAR : Nat := 0x120
abbrev CH_AW : Nat := 0x140
abbrev CH_SCTL : Nat := 0x180
abbrev CH_SSTS : Nat := 0x184
abbrev CH_SSCALE : Nat := 0x188
abbrev CH_SOFS : Nat := 0x18C
abbrev CH_SWIDX : Nat := 0x190
abbrev CH_SPIDX : Nat := 0x194
abbrev CH_SSKIP : Nat := 0x198
abbrev CH_SREJ : Nat := 0x19C
abbrev CH_SEGMK : Nat := 0x1A0
abbrev CH_SEGTS_LO : Nat := 0x1A4
abbrev CH_SEGTS_HI : Nat := 0x1A8
abbrev CH_SREC : Nat := 0x1AC
abbrev CH_LDECL : Nat := 0x1C0
abbrev CH_LDEF : Nat := 0x1C4
abbrev CH_LDEFT : Nat := 0x1C8
abbrev CH_CELLID : Nat := 0x1E0
abbrev FLT_STS : Nat := 0xFC0
abbrev FLT_CAUSE : Nat := 0xFC4
abbrev FLT_LOC : Nat := 0xFC8
abbrev FLT_PAR0 : Nat := 0xFCC
abbrev FLT_PAR1 : Nat := 0xFD0
abbrev FLT_TS_LO : Nat := 0xFD4
abbrev FLT_TS_HI : Nat := 0xFD8
abbrev FLT_CNT : Nat := 0xFDC
abbrev FLT_IEN : Nat := 0xFE0
abbrev ACC_STS : Nat := 0xFF0
abbrev ACC_ADDR : Nat := 0xFF4
abbrev ACC_LOCKV_CNT : Nat := 0xFF8
abbrev UNLOCK_OFF : Nat := 0xFFC
abbrev SL_GTMAP : Nat := 0x40
abbrev TB_SCFG : Nat := 0x100
abbrev TB_SSTS : Nat := 0x104
abbrev TB_SQ : Nat := 0x110

end Sys2Proof.Machine
end

