-- ==== Sys2Proof/Machine/Ops.lean ====
section
/-! DEFINITION. Shared operations: sparse maps and memory, bit fields, signed and saturating arithmetic, timestamps, and access to registers, channels and banks. -/

namespace Sys2Proof.Machine

open Sys2Proof

/-! ### Sparse maps -/

/-- What a sparse map holds at a key; `dflt` gives the value of an unlisted key. -/
def smGet {α : Type} (dflt : Nat → α) : SMap α → Nat → α
  | [], k => dflt k
  | (a, v) :: r, k => if a = k then v else smGet dflt r k

/-- A sparse map without the entry of a key. -/
def smDel {α : Type} : SMap α → Nat → SMap α
  | [], _ => []
  | (a, w) :: r, k => if a = k then smDel r k else (a, w) :: smDel r k

/-- A sparse map with an entry put before the first entry of a higher key. -/
def smIns {α : Type} : SMap α → Nat → α → SMap α
  | [], k, v => [(k, v)]
  | (a, w) :: r, k, v => if k < a then (k, v) :: (a, w) :: r else (a, w) :: smIns r k v

/-- A sparse map with the value at one key replaced. Writing the value an unlisted key has removes the entry. -/
def smSet {α : Type} [DecidableEq α] (dflt : Nat → α) (m : SMap α) (k : Nat) (v : α) : SMap α :=
  if v = dflt k then smDel m k else smIns (smDel m k) k v

/-- Keys above `lo`, strictly rising, and no entry equal to the value an unlisted key has. -/
def smWfFrom {α : Type} [DecidableEq α] (dflt : Nat → α) : Option Nat → SMap α → Bool
  | _, [] => true
  | lo, (a, v) :: r => (match lo with | none => true | some l => decide (l < a)) && decide (v ≠ dflt a) && smWfFrom dflt (some a) r

/-- The canonical form of a sparse map. -/
def smWf {α : Type} [DecidableEq α] (dflt : Nat → α) (m : SMap α) : Bool := smWfFrom dflt none m

/-! ### Bank memory (R440) -/

/-- What an unlisted byte of bank memory reads as: 0 (R408). -/
def memZero (_ : Nat) : Byte := 0

/-- One byte of bank memory. -/
def Mem.read (m : Mem) (a : Nat) : Byte := smGet memZero m a

/-- Bank memory with one byte stored. -/
def Mem.write (m : Mem) (a : Nat) (v : Byte) : Mem := smSet memZero m a v

/-- The canonical form of bank memory. -/
def Mem.wf (m : Mem) : Bool := smWf memZero m

/-- A 32-bit word of bank memory, little-endian (R5). -/
def Mem.read32 (m : Mem) (a : Nat) : Word :=
  BitVec.ofNat 32 ((m.read a).toNat + 0x100 * (m.read (a + 1)).toNat + 0x10000 * (m.read (a + 2)).toNat
    + 0x1000000 * (m.read (a + 3)).toNat)

/-- Bank memory with bytes stored at consecutive addresses. -/
def Mem.writeBytes (m : Mem) (a : Nat) : List Byte → Mem
  | [] => m
  | b :: r => Mem.writeBytes (m.write a b) (a + 1) r

/-- `n` bytes of a number, low byte first (R5). -/
def leBytes : Nat → Nat → List Byte
  | 0, _ => []
  | n + 1, x => BitVec.ofNat 8 x :: leBytes n (x / 256)

/-- Bank memory with a 32-bit word stored, little-endian. -/
def Mem.write32 (m : Mem) (a : Nat) (w : Word) : Mem := m.writeBytes a (leBytes 4 w.toNat)

/-- A 64-bit program word, low word at the lower address (R198). -/
def Mem.read64 (m : Mem) (a : Nat) : Nat := (m.read32 a).toNat + 0x100000000 * (m.read32 (a + 4)).toNat

/-! ### Bit fields -/

/-- The field [hi:lo] of a word, as a number. -/
def bits (w : Word) (hi lo : Nat) : Nat := w.toNat / 2 ^ lo % 2 ^ (hi + 1 - lo)

/-- One bit of a word. -/
def bit (w : Word) (i : Nat) : Bool := w.toNat / 2 ^ i % 2 == 1

/-- A word with the field [hi:lo] replaced by the low bits of `v`. -/
def putBits (w : Word) (hi lo v : Nat) : Word :=
  BitVec.ofNat 32 (w.toNat % 2 ^ lo + 2 ^ lo * (v % 2 ^ (hi + 1 - lo)) + 2 ^ (hi + 1) * (w.toNat / 2 ^ (hi + 1)))

/-- A truth value as a bit. -/
def b2n (b : Bool) : Nat := if b then 1 else 0

/-- A word with one bit replaced. -/
def putBit (w : Word) (i : Nat) (b : Bool) : Word := putBits w i i (b2n b)

/-- The bits of `new` where the mask has 1, else those of `old`. -/
def merge (old new : Word) (mask : Nat) : Word := (old &&& ~~~(BitVec.ofNat 32 mask)) ||| (new &&& BitVec.ofNat 32 mask)

/-- A number of `n` bits read as two's complement (R5). -/
def sx (n v : Nat) : Int := if v % 2 ^ n < 2 ^ (n - 1) then (v % 2 ^ n : Nat) else (v % 2 ^ n : Nat) - (2 ^ n : Nat)

/-- An integer as a number of `n` bits, two's complement. -/
def ux (n : Nat) (i : Int) : Nat := (i % (2 ^ n : Nat)).toNat

/-- An integer clamped to a range. -/
def clampI (lo hi x : Int) : Int := max lo (min hi x)

/-- An integer saturated to `n` signed bits. -/
def satI (n : Nat) (x : Int) : Int := clampI (-(2 ^ (n - 1) : Nat)) ((2 ^ (n - 1) : Nat) - 1) x

/-- An integer stored as a 32-bit word, saturated to the signed range. -/
def satWord (x : Int) : Word := BitVec.ofInt 32 (satI 32 x)

/-- A count that stops at a limit. -/
def satInc (lim x : Nat) : Nat := if x < lim then x + 1 else lim

/-! ### Timestamps (R138 to R141) -/

/-- Whether a TS is valid (R139). -/
def tsValid (t : TS) : Bool := decide (t.toNat % 256 < 160)

/-- The instant a TS names, in taps after the epoch (R138). -/
def tsTaps (t : TS) : Nat := t.toNat / 256 * 160 + t.toNat % 256

/-- The taps after which TS wraps (R140). -/
def wrapTaps : Nat := 2 ^ 56 * 160

/-- The TS of an instant in taps, wrapped (R140). -/
def tsOfTaps (n : Int) : TS :=
  let m := (n % (wrapTaps : Nat)).toNat
  BitVec.ofNat 64 (m / 160 * 256 + m % 160)

/-- The difference of two timestamps in taps, modulo the wrap and read as signed (R140). -/
def tsDiff (a b : TS) : Int :=
  let d := ((tsTaps a : Int) - tsTaps b) % (wrapTaps : Nat)
  if d < (wrapTaps : Nat) / 2 then d else d - (wrapTaps : Nat)

/-- A TS later by a number of taps. -/
def tsAdd (t : TS) (n : Int) : TS := tsOfTaps (tsTaps t + n)

/-- The taps in one microsecond: 640 periods of 160 taps. -/
abbrev tapsPerUs : Nat := 102400

/-! ### Registers, channels, banks -/

/-- The stored value of a register. -/
def rd (d : Dev) (k : Blk) (off : Nat) : Word := smGet regDefault d.regs (regKey k off)

/-- The device with the stored value of a register replaced. -/
def wr (d : Dev) (k : Blk) (off : Nat) (v : Word) : Dev :=
  { d with regs := smSet regDefault d.regs (regKey k off) v }

/-- The stored field [hi:lo] of a register. -/
def fld (d : Dev) (k : Blk) (off hi lo : Nat) : Nat := bits (rd d k off) hi lo

/-- The device with one field of a register replaced. -/
def setFld (d : Dev) (k : Blk) (off hi lo v : Nat) : Dev := wr d k off (putBits (rd d k off) hi lo v)

/-- One stored bit of a register. -/
def flag (d : Dev) (k : Blk) (off i : Nat) : Bool := bit (rd d k off) i

/-- The device with one bit of a register replaced. -/
def setFlag (d : Dev) (k : Blk) (off i : Nat) (b : Bool) : Dev := wr d k off (putBit (rd d k off) i b)

/-- A register that counts up and saturates at 0xFFFF_FFFF. -/
def bump (d : Dev) (k : Blk) (off : Nat) : Dev :=
  wr d k off (BitVec.ofNat 32 (satInc 0xFFFFFFFF (rd d k off).toNat))

/-- A channel of the device. -/
def ch (d : Dev) (c : Chan) : ChanSt := d.chans.get c

/-- The device with one channel changed. -/
def modCh (d : Dev) (c : Chan) (f : ChanSt → ChanSt) : Dev := { d with chans := d.chans.set c.val (f (d.chans.get c)) c.isLt }

/-- A bank of the device. -/
def bk (d : Dev) (b : Bank) : BankSt := d.banks.get b

/-- The device with one bank changed. -/
def modBk (d : Dev) (b : Bank) (f : BankSt → BankSt) : Dev := { d with banks := d.banks.set b.val (f (d.banks.get b)) b.isLt }

/-- The device with a channel's force path changed. -/
def modForce (d : Dev) (c : Chan) (f : Force → Force) : Dev := modCh d c fun k => { k with force := f k.force }

/-- The device with a channel's measurement path changed. -/
def modMeas (d : Dev) (c : Chan) (f : Meas → Meas) : Dev := modCh d c fun k => { k with meas := f k.meas }

/-- The device with a channel's Autis machine changed. -/
def modMach (d : Dev) (c : Chan) (f : Mach → Mach) : Dev := modCh d c fun k => { k with mach := f k.mach }

/-- The device with what Patina holds of a channel's switch timing changed. -/
def modTim (d : Dev) (c : Chan) (f : Timing → Timing) : Dev := modCh d c fun k => { k with tim := f k.tim }

/-- The device with a channel's capture changed. -/
def modCap (d : Dev) (c : Chan) (f : Capture → Capture) : Dev := modCh d c fun k => { k with cap := f k.cap }

/-- The device with a bank's rotation changed. -/
def modRot (d : Dev) (b : Bank) (f : Rotation → Rotation) : Dev := modBk d b fun k => { k with rot := f k.rot }

/-- The device with a bank's sequencer changed. -/
def modSeq (d : Dev) (b : Bank) (f : Sequencer → Sequencer) : Dev := modBk d b fun k => { k with seq := f k.seq }

/-- The 24 channels of a bank (R4). -/
def bankChans (b : Bank) : List Chan := (List.range 24).map fun n => b.chan n

/-- Every channel of the device. -/
def allChans : List Chan := List.finRange 192

/-- Every bank of the device. -/
def allBanks : List Bank := List.finRange 8

/-- The conditions for a bank's rest stop holding: the running line cycle cannot lead to an entry (R282). -/
def restBreak (d : Dev) (b : Bank) : Dev := modSeq d b fun q => { q with restOk := false, restHeld := false }

/-- An operation done for every member of a list, in order. -/
def forEach {α : Type} (l : List α) (d : Dev) (f : Dev → α → Dev) : Dev := l.foldl f d

/-- The window of channel `c`. -/
abbrev chBlk (c : Chan) : Blk := .chan c

/-- A block of the bank of channel `c`. -/
abbrev bankOf (c : Chan) (k : BankBlk) : Blk := .bank c.bank k

/-- An operation done only when a condition holds; otherwise the event does not occur and nothing changes. -/
def when_ (p : Bool) (f : Dev → Dev) (d : Dev) : Dev := if p then f d else d

/-- One free value: the device's free-value counter, advanced. -/
def fresh (d : Dev) : Nat × Dev := (d.free, { d with free := d.free + 1 })

end Sys2Proof.Machine
end

