-- ==== Sys2Proof/Machine/Flags.lean ====
section
/-! DEFINITION. The Autis ALU: results and flags of every ALU instruction over 32 or 64 bits (R181 to R183). -/

namespace Sys2Proof.Machine

open Sys2Proof

/-- An ALU result as an unsigned number of `width` bits, with C and V where the instruction sets them (R182). -/
structure Alu where
  width : Nat
  r     : Nat
  c     : Option Bool
  v     : Option Bool
deriving DecidableEq, Repr

/-- The Z flag of a result (R182). -/
def aluZ (x : Alu) : Bool := decide (x.r = 0)

/-- The N flag of a result: its top bit (R182). -/
def aluN (x : Alu) : Bool := decide (2 ^ (x.width - 1) ≤ x.r)

/-- A signed result stored in `n` bits, wrapping. -/
def wrapN (n : Nat) (x : Int) : Nat := ux n x

/-- Whether a signed value does not fit `n` bits. -/
def noFit (n : Nat) (x : Int) : Bool := decide (sx n (ux n x) ≠ x)

/-- ADD: wrapping sum, carry out, signed overflow. -/
def aluAdd (n a b : Nat) : Alu :=
  ⟨n, (a + b) % 2 ^ n, some (decide (2 ^ n ≤ a + b)), some (noFit n (sx n a + sx n b))⟩

/-- SUB and CMP: wrapping difference, borrow, signed overflow. -/
def aluSub (n a b : Nat) : Alu :=
  ⟨n, wrapN n ((a : Int) - b), some (decide (a < b)), some (noFit n (sx n a - sx n b))⟩

/-- MUL: the low bits of the product; V when the signed product does not fit the result. `rw` is the result width. -/
def aluMul (n rw a b : Nat) : Alu :=
  let p := sx n a * sx n b
  ⟨rw, wrapN rw p, some false, some (noFit rw p)⟩

/-- MULQ: the product with F fraction bits, halves rounded towards plus infinity, saturated (R183). -/
def aluMulq (n f a b : Nat) : Alu :=
  let f := if f = 0 then 16 else f
  let q := (sx n a * sx 32 b + (2 ^ (f - 1) : Nat)) / ((2 ^ f : Nat) : Int)
  ⟨n, wrapN n (satI n q), some false, some (decide (satI n q ≠ q))⟩

/-- MIN: the smaller as signed. -/
def aluMin (n a b : Nat) : Alu := ⟨n, if sx n a ≤ sx n b then a else b, some false, some false⟩

/-- MAX: the larger as signed. -/
def aluMax (n a b : Nat) : Alu := ⟨n, if sx n a ≤ sx n b then b else a, some false, some false⟩

/-- ABS: the magnitude, with the most negative value saturated. -/
def aluAbs (n a : Nat) : Alu :=
  let m : Int := (sx n a).natAbs
  ⟨n, wrapN n (satI n m), some false, some (decide (satI n m ≠ m))⟩

/-- AND. -/
def aluAnd (n a b : Nat) : Alu := ⟨n, a &&& b, some false, some false⟩

/-- OR. -/
def aluOr (n a b : Nat) : Alu := ⟨n, a ||| b, some false, some false⟩

/-- XOR. -/
def aluXor (n a b : Nat) : Alu := ⟨n, a ^^^ b, some false, some false⟩

/-- SHL: zeros enter; C is the last bit shifted out, 0 for a count of 0. -/
def aluShl (n a k : Nat) : Alu :=
  ⟨n, a * 2 ^ k % 2 ^ n, some (decide (k ≠ 0) && decide (a * 2 ^ k / 2 ^ n % 2 = 1)), some false⟩

/-- SHR: zeros enter, or the sign with ARITH; C is the last bit shifted out, 0 for a count of 0. -/
def aluShr (n a k : Nat) (arith : Bool) : Alu :=
  let x : Int := if arith then sx n a else a
  ⟨n, wrapN n (x / ((2 ^ k : Nat) : Int)),
    some (decide (k ≠ 0) && decide (x / ((2 ^ (k - 1) : Nat) : Int) % 2 = 1)), some false⟩

/-- MOV and LDI: the value itself; C unchanged, V as given. -/
def aluMov (n a : Nat) (v : Option Bool) : Alu := ⟨n, a, none, v⟩

end Sys2Proof.Machine
end

