-- ==== Sys2Proof/Config.lean ====
section
/-! DEFINITION. What the spec leaves open and an implementation fixes: opaque constants, so that nothing in Lean can evaluate them or prove a value of them. Each has its row in the assumption log. -/

namespace Sys2Proof

/-- A free value: what a result is that the spec does not state, given the device's free-value counter. -/
opaque Config.free : Nat → Nat

/-- Whether a mean or filter output that is not a whole number of units is reported as the unit above, rather than below,
the exact value, for the n-th such result (the spec states the unit, not the rounding). -/
opaque Config.meanUp : Nat → Bool

/-- A calibration or band term of R136 in 0.0001 ppm or 0.0001 µV, which the spec names without values: for the term (0 to 3 ucal of
the gain of V, gain of I, offset of V, offset of I; 4 to 7 uband), the converter pair, the current gain, the band and the data words of
the pair's converter set. -/
opaque Config.calTerm : Nat → Nat → Nat → Nat → List (BitVec 32) → Nat

/-- Whether V x I that is not a whole number of 10 µW reads as the unit above the exact product (the spec states the unit,
not the rounding). -/
opaque Config.pUp : Int → Int → Bool

/-- The SHA-512 digest of a byte string, as 64 bytes in a number, first byte lowest (R195). -/
opaque Config.sha512 : List (BitVec 8) → Nat

/-- Which of TDC_CCFG(16 + n) and TDC_CLVLn a read of their shared offset returns: true for TDC_CLVLn. -/
opaque Config.tdcOverlapLevel : Bool

/-- The firmware and strap values the reset column names without a number, by register key: none is the zero the model
takes at reset; the values after the first start are these. -/
opaque Config.firmware : Nat → BitVec 32

/-- A word of the factory image of a firmware slot (R384): the spec gives the layout, not the content. -/
opaque Config.factoryImage : Nat → Nat → BitVec 32

/-- The fraction of a physical tap in the uniform table that stands for an absent tap table (R358): the spec names the table without
its values. -/
opaque Config.nominalTap : Nat → BitVec 8

/-- Whether a signature over a message verifies under one of Keafold's keys (R385): key 0 Ed25519, 1 ML-DSA-65. -/
opaque Config.signatureOk : Nat → List (BitVec 8) → List (BitVec 8) → Bool

/-- The device's identity signature over a message (R381), drawn by a number: algorithm 0 Ed25519 of 64 bytes, 1 ML-DSA-65 of
3,309 bytes in hedged mode. -/
opaque Config.sign : Nat → List (BitVec 8) → Nat → List (BitVec 8)

/-- The fixed asymmetry of a path of a time exchange in taps, calibrated in the Catalogue (R150): 0 the Shelf Link hop to port U, 1 the
isolation crossing. The spec names no table for it. -/
opaque Config.pathAsym : Nat → Int

/-- A word of one of the device's two certificates (R383). -/
opaque Config.certificate : Nat → Nat → BitVec 32

/-- The device's serial number and key fingerprint (R382, R383): words 0 and 1 the serial number, 2 to 5 the fingerprint. -/
opaque Config.identity : Nat → BitVec 32

/-- A coefficient of the factory converter set of a pair in a band, by its place in the set (R356, R380): what histories are measured
against. The spec gives no values. -/
opaque Config.factorySet : Nat → Nat → Nat → BitVec 32

/-- A time constant in µs (0 to 2) and then the 300 coupling terms of the nominal package model in the HD boot ROM (R358, R367). -/
opaque Config.romThermal : Nat → Nat

end Sys2Proof
end

