-- ==== Sys2Proof/Machine/Time.lean ====
section
/-! DEFINITION. The clock: the host and the field TS, instants and their grids, slewing, and line time (R138 to R142, R151). -/

namespace Sys2Proof.Machine

open Sys2Proof

abbrev bTB : Blk := .host .tb
abbrev bXC : Blk := .host .xc
abbrev bSL : Blk := .host .sl
abbrev bDEV : Blk := .host .dev
abbrev bFOL : Blk := .host .fol
abbrev bMSP : Blk := .host .msp
abbrev bSEC : Blk := .host .sec
abbrev bCAT : Blk := .host .cat
abbrev bTHM : Blk := .host .thm
abbrev bLED : Blk := .host .led

/-- The field side's TS (R158). -/
def fieldNow (d : Dev) : TS := tsAdd d.tb.now d.tb.fofs

/-- The TS of the side a block is on. -/
def nowOf (d : Dev) (k : Blk) : TS := if blkField k then fieldNow d else d.tb.now

/-- The wrap count W of the host (R141). -/
def wrapW (d : Dev) : Nat := fld d bTB TB_WRAPCNT 7 0

/-- Taps since the epoch of an instant near the present TS `now` of a side whose wrap count is `w` (R141). -/
def tapsFrom (w : Nat) (now t : TS) : Nat := (((w * wrapTaps + tsTaps now : Nat) + tsDiff t now) % (256 * wrapTaps : Nat)).toNat

/-- Taps since the epoch of an instant of the field clock (R71, R141). -/
def extTaps (d : Dev) (t : TS) : Nat := tapsFrom d.tb.fwrap (fieldNow d) t

/-- The extended period count W x 2^56 + TS[63:8] of an instant of the field clock (R141). -/
def extPeriods (d : Dev) (t : TS) : Nat := extTaps d t / 160

/-- The extended period count of an instant of the host clock (R141). -/
def hostPeriods (d : Dev) (t : TS) : Nat := tapsFrom (wrapW d) d.tb.now t / 160

/-- Whether an instant of the field clock is a period start whose extended count is a multiple of `n` (R141). -/
def onGrid (d : Dev) (t : TS) (n : Nat) : Bool := decide (t.toNat % 256 = 0) && decide (extPeriods d t % n = 0)

/-- Whether an instant of the host clock is a period start whose extended count is a multiple of `n` (R141). -/
def onHostGrid (d : Dev) (t : TS) (n : Nat) : Bool := decide (t.toNat % 256 = 0) && decide (hostPeriods d t % n = 0)

/-- A quantity of taps still to be slewed off, after `k` steps of one tap (R151). -/
def slewBy (o : Int) (k : Nat) : Int := if o < 0 then min 0 (o + k) else max 0 (o - k)

/-- Whether a register key belongs to a block of the host side. -/
def hostKey (key : Nat) : Bool := decide (key < 10 * 0x4000)

/-- The number of the CK_HCORE cycle, 256 taps, in which an instant of the host clock lies (R442). -/
def hostCycle (t : TS) : Nat := tsTaps t / 256

/-- The number of the CK_FCORE cycle, two periods, in which an instant of the field clock lies (R169, R442). -/
def fieldCycle (t : TS) : Nat := t.toNat / 512

/-- The RA bits of a status register are set and its accession number advances, after 0xFF to 0x01 (R53). -/
def accAdvance (v : Word) (mask : Nat) : Word :=
  let v := v ||| BitVec.ofNat 32 mask
  putBits v 31 24 (if bits v 31 24 = 255 then 1 else bits v 31 24 + 1)

/-- An event of a status register: its RA bits are set, the accession number advances, and the register counts as not read
since (R53, R54). Events of one cycle of the register clock advance it together; a read between them counts as made before them, so
that no bit clears unseen. -/
def raEvent (d : Dev) (k : Blk) (off mask : Nat) : Dev :=
  let key := regKey k off
  if d.advanced.contains key then
    { wr d k off (rd d k off ||| BitVec.ofNat 32 mask) with seen := d.seen.erase key }
  else { wr d k off (accAdvance (rd d k off) mask) with seen := d.seen.erase key, advanced := d.advanced ++ [key] }

/-- What is kept of the present cycle of the register clocks is gone: a cycle of its own begins (R442). -/
def ownCycle (d : Dev) : Dev := { d with advanced := [], acc := [], wrote := [], cleared := [] }

/-- The cycle of an access through port number `p` (R442): the present one, unless that port has made an access in it already; a port
makes at most one access in a cycle. -/
def accessCycle (d : Dev) (p : Nat) : Dev :=
  if d.acc.contains p then { ownCycle d with acc := [p] } else { d with acc := p :: d.acc }

/-- The bits of a register that a list of the present cycle names. -/
def maskIn (l : List (Nat × Nat)) (key : Nat) : Nat := (l.filter fun x => x.1 == key).foldl (fun m x => m ||| x.2) 0

/-- An internal update of one bit of an RW field: when a port has written the bit in the same cycle, the written value stays (R47). -/
def hwFlag (d : Dev) (k : Blk) (off i : Nat) (b : Bool) : Dev :=
  if (maskIn d.wrote (regKey k off)).testBit i then d else setFlag d k off i b

/-- A protective clear of one bit (R47): a write of the same cycle does not set it again. -/
def protClear (d : Dev) (k : Blk) (off i : Nat) : Dev :=
  { setFlag d k off i false with cleared := d.cleared ++ [(regKey k off, 2 ^ i)] }

/-- The microseconds that begin while the host TS goes on by `dt` taps. -/
def usIn (d : Dev) (dt : Nat) : Nat := (d.tb.mono + dt) / tapsPerUs - d.tb.mono / tapsPerUs

/-- What slewing takes off the field TS more than off the host TS while the host TS goes on by `dt` taps: the field clock runs on its
own (R33, R151, R158). -/
def fieldLag (d : Dev) (dt : Nat) : Int :=
  (d.tb.fslew - slewBy d.tb.fslew (usIn d dt)) - (d.tb.slew - slewBy d.tb.slew (usIn d dt))

/-- Time passes to instant `t` of the host clock. Slewing removes at most one tap per microsecond of each side's TS; what it takes off
the host TS is time that passes beside (R33, R151). When TS[63:8] wraps, the wrap count of its side advances, and at the host
TB_STS.WRAP is set (R140, R141). -/
def advance (d : Dev) (t : TS) : Dev :=
  let dt := (tsDiff t d.tb.now).toNat
  let us := usIn d dt
  let f := tsAdd t (d.tb.fofs - fieldLag d dt)
  let wraps := decide (t.toNat < d.tb.now.toNat)
  let hostSame := decide (hostCycle t = hostCycle d.tb.now)
  let fieldSame := decide (fieldCycle f = fieldCycle (fieldNow d))
  let fw := if f.toNat < (fieldNow d).toNat ∧ 0 ≤ tsDiff f (fieldNow d) then (d.tb.fwrap + 1) % 256 else d.tb.fwrap
  let hs := slewBy d.tb.slew us
  let d := { d with tb := { d.tb with now := t, mono := (d.tb.mono + dt + (d.tb.slew - hs)).toNat, slew := hs,
                                      fslew := slewBy d.tb.fslew us, fofs := d.tb.fofs - fieldLag d dt, fwrap := fw } }
  let same (k : Nat) : Bool := if hostKey k then hostSame else fieldSame
  let d := { d with advanced := d.advanced.filter same, acc := if hostSame then d.acc else [],
                    wrote := d.wrote.filter fun x => same x.1, cleared := d.cleared.filter fun x => same x.1 }
  if wraps then raEvent (setFld d bTB TB_WRAPCNT 7 0 (wrapW d + 1)) bTB TB_STS 0x80 else d

/-- Whether an event can take place at instant `t`: a valid TS, not before the present one. -/
def canBe (now t : TS) : Bool := tsValid t && decide (0 ≤ tsDiff t now)

/-- A host-side event at instant `t`; at an invalid or past instant the event does not occur. -/
def atHost (d : Dev) (t : TS) (f : Dev → Dev) : Dev := if canBe d.tb.now t then f (advance d t) else d

/-- The host instant at which the field TS reads `t`: from the offset that slewing leaves by then (R151, R158). -/
def hostInstant (d : Dev) (t : TS) : TS :=
  let base := tsAdd t (-d.tb.fofs)
  let lag (n : TS) : Int := fieldLag d (tsDiff n d.tb.now).toNat
  tsAdd base (lag (tsAdd base (lag base)))

/-- The device when time has passed to instant `t` of the field clock. Where a tap slewed at that very instant would pass over `t`, it
is slewed with the next one. -/
def fieldAt (d : Dev) (t : TS) : Dev :=
  let d := advance d (hostInstant d t)
  let e := tsDiff t (fieldNow d)
  { d with tb := { d.tb with fofs := d.tb.fofs + e, fslew := d.tb.fslew + e } }

/-- An event at instant `t` of the field clock, whether or not the field side is up. -/
def atFieldAny (d : Dev) (t : TS) (f : Dev → Dev) : Dev :=
  if canBe (fieldNow d) t then f (fieldAt d t) else d

/-- A field-side event at instant `t` of the field clock; while the field side is not up, and at an invalid or past instant, the
event does not occur. -/
def atField (d : Dev) (t : TS) (f : Dev → Dev) : Dev := if d.pwr.fup then atFieldAny d t f else d

/-- Microseconds that have passed since reset. -/
def usNow (d : Dev) : Nat := d.tb.mono / tapsPerUs

/-- Operating seconds of HD since manufacture (R347, FOL_OPSEC). -/
def opsec (d : Dev) : Word := d.folio.opsec0 + BitVec.ofNat 32 (d.tb.mono / (tapsPerUs * 1000000))

/-! ### Line time (R142) -/

/-- P_k of the running cycle. -/
def lineLenOf (l : LineTime) : Nat := max 1 l.len

/-- The end of the running cycle in taps: the announced boundary, or the start plus the length (R143, R144). -/
def lineEndOf (l : LineTime) : Int := match l.next with | some a => a.start | none => l.start + lineLenOf l

/-- The signed distance in taps from the start of the running cycle to an instant. -/
def sinceStart (l : LineTime) (t : TS) : Int := tsDiff t (tsOfTaps l.start)

/-- The cycle that an instant `e` taps after the start of the running cycle is counted from: its count, its start and its length. It is
the running one, the announced one, or the one before (R142). -/
def cycleFor (l : LineTime) (e : Int) : Int × Int × Nat :=
  let here : Int × Int × Nat := (l.cyc, l.start, lineLenOf l)
  if e < 0 then (match l.old with | some o => ((l.cyc : Int) - 1, o.1, max 1 o.2) | none => here)
  else match l.next with
    | some a => if a.start ≤ l.start + e then (a.cyc, a.start, max 1 a.len) else here
    | none => here

/-- The line time of an instant (R142). Cycles that nothing has announced are counted with the length of the nearest known one. -/
def ltIn (l : LineTime) (t : TS) : Nat :=
  let e := sinceStart l t
  let c := cycleFor l e
  let x := l.start + e - c.2.1
  (((c.1 + x / c.2.2) * 65536 + x % c.2.2 * 65536 / c.2.2) % (2 ^ 64 : Nat)).toNat

/-- The instant of a line time in taps (R142, R224), counted as `ltIn` counts. -/
def ltAt (l : LineTime) (lt : Nat) : Int :=
  let k := lt / 65536
  let from_ (c : Int) (b : Int) (p : Nat) : Int := b + ((k : Int) - c) * p + ((lt % 65536 * p + 65535) / 65536 : Nat)
  let here := from_ l.cyc l.start (lineLenOf l)
  if k < l.cyc then (match l.old with | some o => from_ ((l.cyc : Int) - 1) o.1 (max 1 o.2) | none => here)
  else match l.next with
    | some a => if a.cyc ≤ k then from_ a.cyc a.start (max 1 a.len) else here
    | none => here

/-- P_k of the host's running cycle (TB_LINE_PER). -/
def linePer (d : Dev) : Nat := lineLenOf d.tb.hl

/-- The line time of an instant of the host clock. -/
def hostLt (d : Dev) (t : TS) : Nat := ltIn d.tb.hl t

/-- The line time of an instant of the field clock. -/
def ltOf (d : Dev) (t : TS) : Nat := ltIn d.tb.fl t

/-- The instant of a line time on the field side, in taps. -/
def ltInstant (d : Dev) (lt : Nat) : Int := ltAt d.tb.fl lt

/-- The first multiple of `n` periods at or after an instant, as an extended period count. -/
def gridUp (d : Dev) (t : TS) (n : Nat) : Nat :=
  let up := extPeriods d t + (if t.toNat % 256 = 0 then 0 else 1)
  (up + n - 1) / n * n

/-- The TS of an extended period count (R141). -/
def tsOfPeriods (p : Nat) : TS := BitVec.ofNat 64 (p % 2 ^ 56 * 256)

end Sys2Proof.Machine
end

