-- ==== Sys2Proof/Machine/Events.lean ====
section
/-! DEFINITION. Status events and access errors (R40, R49, R53), location codes (R25), the Folio (R346 to R353), the frames a device sends on Shelf Link (R309, R310, R320, R321), and the reporting of fault causes (R334 to R339). -/

namespace Sys2Proof.Machine

open Sys2Proof

/-! ### Status registers -/

/-- The number of an access port (ACC_ADDR.PORT). -/
def portNo : Port → Fin 4
  | .slU => 0
  | .slD => 1
  | .msp => 2
  | .dbg => 3

/-- An access error of a block: the ACC_STS bit of its kind (1 ACCERR, 2 CFGLATE, 3 LOCKV), and the first one since the
last clear in ACC_ADDR (R40). -/
def accErr (d : Dev) (p : Port) (k : Blk) (off kind : Nat) : Dev :=
  let d := raEvent d k ACC_STS (2 ^ (kind - 1))
  if fld d k ACC_ADDR 29 28 = 0 then
    wr d k ACC_ADDR (BitVec.ofNat 32 ((portNo p).val * 0x40000000 + kind * 0x10000000 + off % 0x10000))
  else d

/-- Sets ACCERR of a block without an address: for refusals that no port access makes. -/
def accErrPort (d : Dev) (p : Port) (k : Blk) (off : Nat) : Dev := accErr d p k off 1

/-! ### Location codes (R25, R26) -/

/-- A location code from its fields. -/
def locCode (die bank chan stage macro_ cell : Nat) : Word :=
  BitVec.ofNat 32 (die * 2 ^ 29 + bank * 2 ^ 26 + chan * 2 ^ 21 + stage * 2 ^ 18 + macro_ * 2 ^ 10 + cell)

/-- A place of a channel on its analog die. -/
def locFA (c : Chan) (stage macro_ : Nat) : Word := locCode (2 + c.bank.val / 4) c.bank.val c.inBank stage macro_ 0

/-- A place of a channel on FD. -/
def locFD (c : Chan) (stage macro_ : Nat) : Word := locCode 1 c.bank.val c.inBank stage macro_ 0

/-- A bank-common place on the bank's analog die. -/
def locBankFA (b : Bank) (stage macro_ : Nat) : Word := locCode (2 + b.val / 4) b.val 31 stage macro_ 0

/-- A bank-common place on FD. -/
def locBankFD (b : Bank) (stage macro_ : Nat) : Word := locCode 1 b.val 31 stage macro_ 0

/-- A place on HD. -/
def locHD (stage macro_ : Nat) : Word := locCode 0 0 31 stage macro_ 0

/-- A lane of the barrier: 0 to 3 host to field, 4 to 7 field to host (R26). -/
def locLane (toHost : Bool) (lane : Nat) : Word := locCode 4 0 31 5 (lane + 4 * b2n toHost) 0

/-- The fields of a location code are consistent: a die that exists, a channel or bank-common, the bank on the die, the lane of the
barrier, and a stage that is used on the die (R25, R26). -/
def locOk (l : Word) : Bool :=
  let die := bits l 31 29
  let bank := bits l 28 26
  let chan := bits l 25 21
  let stage := bits l 20 18
  decide (die ≤ 4 ∧ (chan ≤ 23 ∨ chan = 31))
    && decide ((die = 2 → bank ≤ 3) ∧ (die = 3 → 4 ≤ bank) ∧ (die = 0 ∨ die = 4 → bank = 0 ∧ chan = 31) ∧ (die = 4 → bits l 17 10 ≤ 7))
    && match stage with
      | 0 => true
      | 1 => decide (1 ≤ die ∧ die ≤ 3)
      | 3 => decide (1 ≤ die ∧ die ≤ 3)
      | 5 => true
      | 7 => decide (die ≤ 1)
      | _ => decide (die = 2 ∨ die = 3)

/-- The location code that names a block, for records of its register accesses (R49). -/
def locBlk : Blk → Word
  | .host _ => locHD 0 0
  | .bank b _ => locCode 1 b.val 31 0 0 0
  | .chan c => locCode 1 c.bank.val c.inBank 0 0 0

/-! ### Shelf Link frames out -/

/-- The class of a fault code (R343): 1 corrected, 2 contained, 3 fatal; 0 for an event code (R349). -/
def faultClass (code : Nat) : Nat :=
  if 0x8000 ≤ code then 0 else
  if code ∈ [0x010A, 0x0302, 0x0401, 0x0501, 0x0601, 0x0901, 0x1007, 0x1401, 0x1501, 0x1702] then 1
  else if code ∈ [0x1002, 0x1004, 0x1301, 0x1701] then 3
  else 2

/-- Takes the next waiting frame of a port: the lowest class first, and within a class the device's own and forwarded
frames alternately when both wait (R321). -/
def pickFrame (p : SlPort) : Option (Waiting × SlPort) :=
  let best := p.wait.foldl (fun m w => min m w.frame.cls.val) 4
  let cls := p.wait.filter fun w => w.frame.cls.val == best
  let want := cls.find? fun w => w.own != p.lastOwn
  match want.or cls.head? with
  | none => none
  | some w => some (w, { p with wait := p.wait.erase w, lastOwn := w.own })

/-- Sends waiting frames while the replay buffer has room (R310): each takes the next LSEQ (R309). -/
def pump : Nat → SlPort → SlPort
  | 0, p => p
  | n + 1, p =>
    if p.lock && decide (p.replay.length < 64) then
      match pickFrame p with
      | none => p
      | some (w, p) =>
        let l := p.nextTx % 4096
        pump n { p with nextTx := (l + 1) % 4096,
                        replay := p.replay ++ [⟨{ w.frame with lseq := ⟨l, Nat.mod_lt _ (by decide)⟩ }, 0⟩] }
    else p

/-- The port of a side. -/
def slPort (d : Dev) : Side → SlPort
  | .u => d.sl.pu
  | .d => d.sl.pd

/-- The device with one Shelf Link port changed. -/
def modPort (d : Dev) (q : Side) (f : SlPort → SlPort) : Dev :=
  match q with
  | .u => { d with sl := { d.sl with pu := f d.sl.pu } }
  | .d => { d with sl := { d.sl with pd := f d.sl.pd } }

/-- A frame given to a port; the time without an acknowledgement runs from the first frame in the replay buffer (R310). -/
def queueFrame (d : Dev) (q : Side) (f : SlFrame) (own : Bool) : Dev :=
  modPort d q fun p =>
    let n := pump (p.wait.length + 1) { p with wait := p.wait ++ [⟨f, own⟩] }
    if p.replay.isEmpty then { n with idleAt := d.tb.mono } else n

/-- The other port. -/
def otherSide : Side → Side
  | .u => .d
  | .d => .u

/-- The egress port for DMODE 2 (R320, R326). -/
def egress (d : Dev) : Side := if d.sl.egressD then .d else .u

/-- A frame this device originates (R309): its source address or NOADDR, and the next source sequence number. -/
def ownFrame (d : Dev) (type : Fin 16) (resp : Bool) (cls : Fin 4) (vmaj : Fin 16) (dmode : Fin 4) (dst : Fin 1024)
    (tag : BitVec 16) (payload : List Word) : SlFrame :=
  let valid := flag d bSL SL_ADDR 10
  { lseq := 0, vmaj := vmaj, vmin := ⟨fld d bSL SL_VER 27 24 % 16, Nat.mod_lt _ (by decide)⟩, type := type, resp := resp,
    cls := cls, ctrl := false, len := ⟨payload.length % 2048, Nat.mod_lt _ (by decide)⟩, dmode := dmode, dst := dst,
    src := if valid then ⟨fld d bSL SL_ADDR 9 0 % 1024, Nat.mod_lt _ (by decide)⟩ else 0, noaddr := !valid, hops := 0,
    seq := d.sl.srcSeq, tag := tag, payload := payload, crcOk := true }

/-- Sends a frame of this device out of a port and advances its source sequence number. -/
def sendFrame (d : Dev) (q : Side) (type : Fin 16) (resp : Bool) (cls : Fin 4) (vmaj : Fin 16) (dmode : Fin 4)
    (dst : Fin 1024) (tag : BitVec 16) (payload : List Word) : Dev :=
  let f := ownFrame d type resp cls vmaj dmode dst tag payload
  queueFrame { d with sl := { d.sl with srcSeq := d.sl.srcSeq + 1 } } q f true

/-- Sends a message towards the line controller (DMODE 2) out of the egress port (R320). -/
def sendToController (d : Dev) (type : Fin 16) (cls : Fin 4) (payload : List Word) : Dev :=
  sendFrame d (egress d) type false cls 3 2 0 0 payload

/-! ### The Folio (R346 to R353) -/

/-- The words of a record (R347). -/
def recWords (r : FolRec) : List Word :=
  [r.accn, BitVec.ofNat 32 (r.code.toNat + 0x10000 * r.flags.toNat), r.loc, r.opsec, r.pcyc, r.rep, r.p0, r.p1]

/-- What the Folio did with a cause or event: made a record, counted a repeat, or made no ring record. -/
inductive FolDone where
  | made (r : FolRec)
  | repeated
  | none
deriving DecidableEq, Repr

/-- Appends a record to the ring of 14,336, overwriting the oldest when it is full (R346). -/
def folAppend (d : Dev) (code cls flags : Nat) (loc p0 p1 : Word) : Dev × FolRec :=
  let r : FolRec :=
    { accn := d.folio.nextAcc, code := BitVec.ofNat 16 code, flags := BitVec.ofNat 16 (cls + flags), loc := loc,
      opsec := opsec d, pcyc := d.folio.pcyc, rep := 0, p0 := p0, p1 := p1 }
  let full := decide (14336 ≤ d.folio.ring.length)
  let ring := (if full then d.folio.ring.drop 1 else d.folio.ring) ++ [r]
  let d := { d with folio := { d.folio with ring := ring, nextAcc := d.folio.nextAcc + 1 } }
  (if full then raEvent d bFOL FOL_STS 0x2 else d, r)

/-- Whether a cause is identical to the newest record (R348). -/
def folSame (r : FolRec) (code cls : Nat) (loc p0 p1 : Word) : Bool :=
  decide (r.code.toNat = code) && decide (r.flags.toNat % 4 = cls) && !(r.flags.getLsbD 2) && decide (r.loc = loc)
    && decide (r.p0 = p0) && decide (r.p1 = p1)

/-- A record made or repeated in the ring (R346, R348). -/
def folRing (d : Dev) (code cls flags : Nat) (loc p0 p1 : Word) : Dev × FolDone :=
  match d.folio.ring.getLast? with
  | some r =>
    if folSame r code cls loc p0 p1 then
      let n := satInc 0xFFFFFFFF r.rep.toNat
      let fl := if r.rep.toNat = 0xFFFFFFFF then r.flags ||| 0x20 else r.flags
      ({ d with folio := { d.folio with ring := d.folio.ring.dropLast ++ [{ r with rep := BitVec.ofNat 32 n, flags := fl }] } },
        .repeated)
    else let x := folAppend d code cls flags loc p0 p1; (x.1, .made x.2)
  | none => let x := folAppend d code cls flags loc p0 p1; (x.1, .made x.2)

/-- The lowest source slot in use that names a code (R350). -/
def folSource (d : Dev) (code : Nat) : Option Nat :=
  (List.range 64).find? fun n => flag d bFOL (FOL_SRC + 4 * n) 31 && decide (fld d bFOL (FOL_SRC + 4 * n) 15 0 = code)

/-- The zero an unlisted word of a source area holds. -/
def wordZero (_ : Nat) : Word := 0

/-- A word of a source area (R350). -/
def areaGet (d : Dev) (n w : Nat) : Word := smGet wordZero d.folio.area (n * 256 + w)

/-- The device with a word of a source area replaced. -/
def areaSet (d : Dev) (n w : Nat) (v : Word) : Dev :=
  { d with folio := { d.folio with area := smSet wordZero d.folio.area (n * 256 + w) v } }

/-- One occurrence in a source's histogram: its bin counts, saturating (R350). -/
def histCount (d : Dev) (n shift : Nat) (p0 : Word) : Dev :=
  let base := (rd d bFOL (FOL_SBASE + 4 * n)).toInt
  let bin := (clampI 0 63 ((p0.toInt - base) / (2 ^ shift : Nat))).toNat
  areaSet d n (16 + bin) (BitVec.ofNat 32 (satInc 0xFFFFFFFF (areaGet d n (16 + bin)).toNat))

/-- One occurrence in a source's extremes: the smallest and largest P0 with location and time (R350). -/
def extremeNote (d : Dev) (n : Nat) (first : Bool) (loc p0 : Word) : Dev :=
  let d := if first || decide (p0.toInt < (areaGet d n 2).toInt) then
    areaSet (areaSet (areaSet d n 2 p0) n 3 loc) n 4 (opsec d) else d
  if first || decide ((areaGet d n 5).toInt < p0.toInt) then
    areaSet (areaSet (areaSet d n 5 p0) n 6 loc) n 7 (opsec d) else d

/-- An occurrence of a code that a source slot counts (R350). -/
def folStat (d : Dev) (n : Nat) (loc p0 : Word) : Dev :=
  let mode := fld d bFOL (FOL_SRC + 4 * n) 29 28
  let first := decide ((areaGet d n 1).toNat = 0)
  let d := areaSet d n 1 (BitVec.ofNat 32 (satInc 0xFFFFFFFF (areaGet d n 1).toNat))
  let d := if mode = 1 ∨ mode = 3 then histCount d n (fld d bFOL (FOL_SRC + 4 * n) 27 24) p0 else d
  if mode = 2 ∨ mode = 3 then extremeNote d n first loc p0 else d

/-- A cause or event reaches the Folio: counted while frozen (R352), else taken by its source's mode and, where the mode
leaves one, recorded in the ring (R346, R350). -/
def folNote (d : Dev) (code cls flags : Nat) (loc p0 p1 : Word) : Dev × FolDone :=
  match d.folio.frzAt with
  | some _ =>
    let d := bump d bFOL FOL_GAPCNT
    ({ d with folio := { d.folio with gapBad := d.folio.gapBad + b2n (decide (2 ≤ cls)) } }, .none)
  | none =>
    match folSource d code with
    | some n =>
      if fld d bFOL (FOL_SRC + 4 * n) 29 28 = 0 then folRing d code cls flags loc p0 p1
      else
        let d := folStat d n loc p0
        if 2 ≤ cls then folRing d code cls flags loc p0 p1 else (d, .none)
    | none => folRing d code cls flags loc p0 p1

/-- An event of R349 reaches the Folio; `field` when it comes from the field side. -/
def folEvent (d : Dev) (code : Nat) (field : Bool) (loc p0 p1 : Word) : Dev :=
  (folNote d code 0 (8 * b2n field) loc p0 p1).1

/-- A GAP record (R349, R352); while frozen it is counted as any other event is. -/
def folGap (d : Dev) (n bad : Word) : Dev :=
  if d.folio.frzAt.isSome then bump d bFOL FOL_GAPCNT
  else raEvent (folAppend d 0x8001 0 4 (locHD 0 0) n bad).1 bFOL FOL_STS 0x4

/-- The freeze ends: a GAP record when causes were missed (R352). -/
def folThaw (d : Dev) : Dev :=
  match d.folio.frzAt with
  | none => d
  | some _ =>
    let bad := d.folio.gapBad
    let d := { d with folio := { d.folio with frzAt := none } }
    let d := setFlag (setFlag d bFOL FOL_CTL 0 false) bFOL FOL_STS 16 false
    let gap := rd d bFOL FOL_GAPCNT
    if gap = 0 then d else folGap d gap (BitVec.ofNat 32 bad)

/-- A freeze begins (R352). -/
def folFreeze (d : Dev) : Dev :=
  let d := wr d bFOL FOL_GAPCNT 0
  let d := setFlag (setFlag d bFOL FOL_CTL 0 true) bFOL FOL_STS 16 true
  { d with folio := { d.folio with frzAt := some d.tb.mono, gapBad := 0 } }

/-! ### Fault causes (R334 to R339) -/

/-- The TS of a block's latched cause. -/
def fltTs (d : Dev) (k : Blk) : TS := ((rd d k FLT_TS_HI).setWidth 64 <<< 32) ||| (rd d k FLT_TS_LO).setWidth 64

/-- Whether two instants lie in one cycle of a block's register clock (R442). -/
def sameCycle (k : Blk) (t u : TS) : Bool :=
  if blkField k then decide (fieldCycle t = fieldCycle u) else decide (hostCycle t = hostCycle u)

/-- Latches a cause in a block's fault registers: one of a higher class than the latched one, or, among the causes of one cycle of
the block's register clock, of the same class and a lower code (R336). -/
def latchCause (d : Dev) (k : Blk) (code cls : Nat) (loc p0 p1 : Word) (ts : TS) : Dev :=
  let more := decide (fld d k FLT_STS 3 0 ≠ 0)
  let old := fld d k FLT_CAUSE 31 30
  let with_ := d.advanced.contains (regKey k FLT_STS) && sameCycle k (fltTs d k) ts
  let new := decide (old < cls) || (decide (old = cls) && with_ && decide (code < fld d k FLT_CAUSE 15 0))
  let d := raEvent d k FLT_STS (2 ^ cls + b2n more)
  let d := if more then bump d k FLT_CNT else d
  if new then
    let d := wr d k FLT_CAUSE (BitVec.ofNat 32 (cls * 0x40000000 + code))
    let d := wr (wr (wr d k FLT_LOC loc) k FLT_PAR0 p0) k FLT_PAR1 p1
    wr (wr d k FLT_TS_LO (ts.truncate 32)) k FLT_TS_HI ((ts >>> 32).truncate 32)
  else d

/-- The fault registers that HD mirrors for a field block (R338). -/
def fltOffsets : List Nat := [FLT_STS, FLT_CAUSE, FLT_LOC, FLT_PAR0, FLT_PAR1, FLT_TS_LO, FLT_TS_HI, FLT_CNT, FLT_IEN]

/-- HD's mirror of a field block's fault registers takes their values (R338). -/
def mirrorBlk (d : Dev) (k : Blk) : Dev :=
  { d with mirror := fltOffsets.foldl (fun m o => smSet regDefault m (regKey k o) (rd d k o)) d.mirror }

/-- Whether a cause comes from the field side: one of a field block, or of the field's part of the crossing (R343, R347). -/
def fromField (k : Blk) (code : Nat) : Bool := blkField k || decide (k = bXC ∧ (code = 0x1005 ∨ code = 0x1006 ∨ code = 0x1007))

/-- A cause reaches HD: its Folio record and, when FLT_IEN of its block asks for one, its FAULT message (R339, R347).
A cause that only repeats sends no message (R348). -/
def reportCause (d : Dev) (k : Blk) (code cls : Nat) (loc p0 p1 : Word) (held : Bool) : Dev :=
  let fl := 8 * b2n (fromField k code) + 16 * b2n held
  let x := folNote d code cls fl loc p0 p1
  let d := x.1
  let msg := if 2 ≤ cls then flag d k FLT_IEN 8 else flag d k FLT_IEN 9
  if msg then
    match x.2 with
    | .made r => sendToController d 0xA 0 (BitVec.ofNat 32 (blkBase k) :: recWords r)
    | .repeated => d
    | .none =>
      sendToController d 0xA 0
        [BitVec.ofNat 32 (blkBase k), 0xFFFFFFFF, BitVec.ofNat 32 (code + 0x10000 * (cls + fl)),
         loc, opsec d, d.folio.pcyc, 0, p0, p1]
  else d

/-- A cause is raised in a block: latched there, and reported; a field block's cause is held while the crossing is down,
64 at most, and counted beyond that (R334, R336, R339). `live` while its condition stands. -/
def raise (d : Dev) (k : Blk) (code : Nat) (loc p0 p1 : Word) (live : Bool) : Dev :=
  let cls := faultClass code
  let cz : CauseIn := ⟨k, BitVec.ofNat 16 code, loc, p0, p1, live⟩
  let d := latchCause d k code cls loc p0 p1 (nowOf d k)
  let d := if live then { d with live := if cz ∈ d.live then d.live else d.live ++ [cz] } else d
  let d := if cls = 3 ∧ k ≠ bDEV then latchCause d bDEV code cls loc p0 p1 (nowOf d k) else d
  if blkField k && !d.xc.up then
    if d.xc.held.length < 64 then { d with xc := { d.xc with held := d.xc.held ++ [⟨cz, nowOf d k⟩] } }
    else { d with xc := { d.xc with heldGap := d.xc.heldGap + 1, heldBad := d.xc.heldBad + b2n (decide (2 ≤ cls)) } }
  else reportCause (if blkField k then mirrorBlk d k else d) k code cls loc p0 p1 false

/-- An event of R349 on the field side: it reaches the Folio, or waits like a cause while the crossing is down (R339). -/
def fieldEvent (d : Dev) (k : Blk) (code : Nat) (loc p0 p1 : Word) : Dev :=
  if d.xc.up then folEvent d code true loc p0 p1
  else if d.xc.held.length < 64 then
    { d with xc := { d.xc with held := d.xc.held ++ [⟨⟨k, BitVec.ofNat 16 code, loc, p0, p1, false⟩, fieldNow d⟩] } }
  else { d with xc := { d.xc with heldGap := d.xc.heldGap + 1 } }

/-- The condition of a cause of a block is no longer present (FLT_STS.LIVE). -/
def unlive (d : Dev) (k : Blk) (code : Nat) : Dev :=
  { d with live := d.live.filter fun z => !(decide (z.blk = k) && decide (z.code.toNat = code)) }

/-- The condition of a cause of a block with one P0 is no longer present. -/
def unliveOf (d : Dev) (k : Blk) (code : Nat) (p0 : Word) : Dev :=
  { d with live := d.live.filter fun z => !(decide (z.blk = k) && decide (z.code.toNat = code) && decide (z.p0 = p0)) }

/-- The contained and fatal conditions of a block that are present now (FLT_STS.LIVE): those noted, and in TB an offset above 1,024
taps that is still to be slewed off (R151). -/
def liveOf (d : Dev) (k : Blk) : List CauseIn :=
  (d.live.filter fun z => decide (z.blk = k) && decide (2 ≤ faultClass z.code.toNat))
    ++ (if k = bTB ∧ 1024 < d.tb.slew.natAbs then [⟨bTB, 0x1101, locHD 0 0, satWord d.tb.slew, 0, false⟩] else [])
    ++ (if k = bTB ∧ 1024 < d.tb.fslew.natAbs then [⟨bTB, 0x1101, locHD 0 0, satWord d.tb.fslew, 0, false⟩] else [])

/-- FLT_STS.LIVE of a block. -/
def isLive (d : Dev) (k : Blk) : Bool := !(liveOf d k).isEmpty

/-- A write-back that clears FLT_STS: the latched cause and its values go, and a cause whose condition stands is raised
again at once (R337). -/
def clearFaults (d : Dev) (k : Blk) : Dev :=
  let d := setFld d k FLT_STS 3 0 0
  let d := [FLT_CAUSE, FLT_LOC, FLT_PAR0, FLT_PAR1, FLT_TS_LO, FLT_TS_HI, FLT_CNT].foldl (fun d o => wr d k o 0) d
  let d := forEach (liveOf d k) d fun d z => raise d k z.code.toNat z.loc z.p0 z.p1 z.live
  if blkField k && d.xc.up then mirrorBlk d k else d

/-- Whether a channel has an uncleared contained fault: CONT of its window or of its group leader's (R334). -/
def grpLeader (d : Dev) (c : Chan) : Option Chan :=
  let l := fld d (bankOf c .loop) (LOOP_GRP + 4 * c.inBank) 20 16
  if l < 24 then some (c.bank.chan l) else none

/-- The channel whose window reports for `c`: the leader of its group, or itself (R29, R334). -/
def leadOf (d : Dev) (c : Chan) : Chan := (grpLeader d c).getD c

/-- Whether a channel is a follower of a locked group (R27). -/
def isFollower (d : Dev) (c : Chan) : Bool := match grpLeader d c with | some l => l != c | none => false

/-- The members of the group that `c` leads or belongs to; `c` alone when it is in no group (R27). -/
def members (d : Dev) (c : Chan) : List Chan :=
  match grpLeader d c with
  | some l => (bankChans c.bank).filter fun m => decide (grpLeader d m = some l)
  | none => [c]

/-- Whether a channel has an uncleared contained fault (R334). -/
def hasFault (d : Dev) (c : Chan) : Bool := flag d (chBlk c) FLT_STS 2 || flag d (chBlk (leadOf d c)) FLT_STS 2

/-- All register blocks (R438, R439). -/
def allBlks : List Blk := (List.range 266).map blkOfIdx

/-- The power state of a bank, 0 to 3 for L0 to L3 (LED_PSTATE, R281). -/
def pstate (d : Dev) (b : Bank) : Nat := fld d bLED LED_PSTATE (2 * b.val + 1) (2 * b.val)

/-- The resume time of a power state in µs (R281). -/
def resumeUs (s : Nat) : Nat := match s with | 0 => 0 | 1 => 20 | 2 => 400 | _ => 15000

/-- A wake cause of a bank (R285): a resting bank reaches L0 one resume time later; a bank in L0 at a line-cycle boundary does not
enter a rest state there. -/
def wakeBank (d : Dev) (b : Bank) : Dev :=
  if pstate d b = 0 then
    if 0 ≤ sinceStart d.tb.fl (fieldNow d) ∧ sinceStart d.tb.fl (fieldNow d) < 10240 then restBreak d b else d
  else if (bk d b).seq.wakeAt.isSome then d
  else modSeq d b fun q => { q with wakeAt := some (d.tb.mono + resumeUs (pstate d b) * tapsPerUs) }

/-! ### Trims and guards in motion (R289, R366) -/

/-- Whether a channel's comparators operate continuously (R291). -/
def cmpCont (d : Dev) (c : Chan) : Bool :=
  decide (pstate d c.bank ≤ 1) && (flag d (chBlk (leadOf d c)) CH_STS 19 || !flag d (bankOf c .cmp) CMP_CTL 0)

/-- A value moved towards another by at most `n` taps. -/
def moveBy (n : Nat) (x tgt : Int) : Int := if x < tgt then min tgt (x + n) else max tgt (x - n)

/-- A field of a trim word as a signed number of taps. -/
def trimOf (w : Word) (lo : Nat) : Int := sx 6 (bits w (lo + 5) lo)

/-- The offsets of the effective thresholds and the guard of a channel move by `n` taps towards what the Catalogue and Patina ask
for, and CMP_TRIMc shows them (R289). -/
def trimMove (d : Dev) (c : Chan) (n : Nat) : Dev :=
  let k := (ch d c).cmp
  let g : Int := (bits k.tgt 29 24 : Nat)
  let gd := moveBy n k.guard g
  let ov := moveBy n k.ov (trimOf k.tgt 0 - g)
  let uv := moveBy n k.uv (trimOf k.tgt 8 + g)
  let oc := moveBy n k.oc (trimOf k.tgt 16 - g)
  let d := modCh d c fun x => { x with cmp := { x.cmp with ov := ov, uv := uv, oc := oc, guard := gd, at_ := d.tb.mono } }
  wr d (bankOf c .cmp) (CMP_TRIM + 0x20 * c.inBank)
    (BitVec.ofNat 32 (gd.toNat * 0x1000000 + ux 6 (oc + gd) * 0x10000 + ux 6 (uv - gd) * 0x100 + ux 6 (ov + gd)))

/-- The decisions of continuous operation since the thresholds last moved, one in each microsecond, take effect (R289). -/
def trimSettle (d : Dev) (c : Chan) : Dev :=
  if cmpCont d c then trimMove d c (d.tb.mono / tapsPerUs - (ch d c).cmp.at_ / tapsPerUs)
  else modCh d c fun x => { x with cmp := { x.cmp with at_ := d.tb.mono } }

/-- Comparators that have just gone over to continuous operation make their first decision within 1 µs from now (R293, R295). -/
def cmpRestart (cont : Bool) (d : Dev) (c : Chan) : Dev :=
  if cont || !cmpCont d c then d else
  modCh d c fun x => { x with cmp := { x.cmp with onAt := x.cmp.onAt.map fun _ => d.tb.mono } }

/-! ### Interrupts (R296, R338) -/

/-- Whether a block's fault interrupt is active (R338). -/
def fltIrq (d : Dev) (k : Blk) : Bool := decide (fld d k FLT_STS 3 0 &&& fld d k FLT_IEN 3 0 ≠ 0)

/-- Whether a bit of a channel's comparator status is set whose interrupt is enabled (R296). -/
def cmpIrq (d : Dev) (c : Chan) : Bool :=
  let o := 0x20 * c.inBank
  decide (fld d (bankOf c .cmp) (CMP_STS + o) 5 0 &&& fld d (bankOf c .cmp) (CMP_IEN + o) 5 0 ≠ 0)

/-- The interrupt line of a block (R338). -/
def blkIrq (d : Dev) (k : Blk) : Bool :=
  fltIrq d k || match k with | .bank b .cmp => (bankChans b).any (cmpIrq d) | _ => false

/-- Whether the line of any field block is high. -/
def fieldIrq (d : Dev) : Bool := (allBlks.filter blkField).any (blkIrq d)

/-- The level of IRQ_N: true while the output is asserted low (R338). While the crossing is down the field blocks' lines stand as HD last
knew them. -/
def irqN (d : Dev) : Bool := (allBlks.filter fun k => !blkField k).any (blkIrq d) || (if d.xc.up then fieldIrq d else d.xc.irq)

/-- The crossing stops working now. -/
def xDown (d : Dev) : Dev := { d with xc := { d.xc with up := false, lossAt := some d.tb.mono, irq := fieldIrq d } }

end Sys2Proof.Machine
end

