-- ==== Sys2Proof/Machine/Real.lean ====
section
/-! DEFINITION. Real arithmetic at 128 fractional bits: sines, logarithms and exponentials, and square roots rounded down and up. -/

namespace Sys2Proof.Machine

open Sys2Proof

/-! ### Sines at 128 fractional bits -/

/-- One, as a number with 128 fractional bits. -/
abbrev fixOne : Int := 2 ^ 128

/-- Pi with 128 fractional bits, rounded down. -/
def fixPi : Int := 1069028584064966747859680373161870783300

/-- The terms of the power series of sine or cosine from term `t` of degree `k`, summed. -/
def trigSum : Nat → Nat → Int → Int → Int → Int
  | 0, _, _, _, acc => acc
  | f + 1, k, x2, t, acc =>
    let t' := -(t * x2 / fixOne) / ((k + 1) * (k + 2) : Nat)
    trigSum f (k + 2) x2 t' (acc + t')

/-- sin(2π n ÷ d) and cos(2π n ÷ d), with 128 fractional bits. -/
def sinCos (n d : Nat) : Int × Int :=
  let x := 2 * fixPi * (n % d : Nat) / (d : Nat)
  let x2 := x * x / fixOne
  (trigSum 48 1 x2 x x, trigSum 48 0 x2 fixOne fixOne)

/-- One step of a bitwise square root. -/
def isqrtFrom : Nat → Nat → Nat → Nat
  | 0, _, r => r
  | b + 1, n, r => if (r + 2 ^ b) * (r + 2 ^ b) ≤ n then isqrtFrom b n (r + 2 ^ b) else isqrtFrom b n r

/-- The square root of a number, rounded down. -/
def isqrt (n : Nat) : Nat := isqrtFrom (Nat.log2 n / 2 + 1) n 0

/-- The square root of a non-negative rational number, rounded up. -/
def ceilSqrt (x : Rat) : Nat :=
  let n := x.ceil.toNat
  let s := isqrt n
  if s * s = n then s else s + 1

/-- The smallest natural number that is not below a + k √q, for a and k at least 0. -/
def ceilRoot (a k q : Rat) : Nat :=
  let t : Nat := a.den
  (a.num.toNat + ceilSqrt (k * k * q * (t : Rat) * (t : Rat)) + t - 1) / t

/-! ### Logarithms and exponentials -/

/-- Terms of the power series of the inverse hyperbolic tangent: t ÷ k + t z² ÷ (k + 2) + … -/
def atanhSum : Nat → Nat → Int → Int → Int
  | 0, _, _, _ => 0
  | f + 1, k, z2, t => t / (k : Int) + atanhSum f (k + 2) z2 (t * z2 / fixOne)

/-- The inverse hyperbolic tangent of z, for |z| up to 1/3. -/
def atanhFix (z : Int) : Int := atanhSum 50 1 (z * z / fixOne) z

/-- The natural logarithm of p ÷ q, to some 2^-110. -/
def lnFix (p q : Nat) : Int :=
  let a := p * 2 ^ Nat.log2 q
  let b := q * 2 ^ Nat.log2 p
  ((Nat.log2 p : Int) - (Nat.log2 q : Int)) * (2 * atanhFix (fixOne / 3))
    + 2 * atanhFix (((a : Int) - (b : Int)) * fixOne / ((a + b : Nat) : Int))

/-- Terms of the power series of the exponential function. -/
def expSum : Nat → Nat → Int → Int → Int
  | 0, _, _, _ => 0
  | f + 1, k, x, t => t + expSum f (k + 1) x (t * x / fixOne / ((k + 1 : Nat) : Int))

/-- exp(x), for |x| up to 6, to some 2^-110. -/
def expFix (x : Int) : Int := expSum 80 0 x fixOne

/-- A number with 128 fractional bits as a rational number. -/
def fixRat (x : Int) : Rat := (x : Rat) / (fixOne : Rat)

/-- Bounds of a real number. -/
abbrev Span := Rat × Rat

/-- The bounds of a number known to 2^-96. -/
def fixSpan (x : Int) : Span := (fixRat (x - 2 ^ 32), fixRat (x + 2 ^ 32))

/-- The bounds of an exact number. -/
def exactly (x : Rat) : Span := (x, x)

/-- Bounds of a sum. -/
def spanAdd (a b : Span) : Span := (a.1 + b.1, a.2 + b.2)

/-- Bounds of a multiple by a number of at least 0. -/
def spanScale (k : Rat) (a : Span) : Span := (k * a.1, k * a.2)

end Sys2Proof.Machine
end

