-- ==== Sys2Proof/Machine/Catalogue.lean ====
section
/-! DEFINITION. Entries of the Catalogue and of the Patina store in MRAM (R354 to R358, R380), image slots in MRAM (R384), and the digests taken over them (R195, R391). -/

namespace Sys2Proof.Machine

open Sys2Proof

/-! ### CRC-32C and entries (R355) -/

/-- Eight steps of the reflected CRC-32C. -/
def crcBits : Nat → Nat → Nat
  | 0, x => x
  | n + 1, x => crcBits n (if x % 2 = 1 then (x / 2) ^^^ 0x82F63B78 else x / 2)

/-- The CRC-32C of a byte string: initial value and final XOR 0xFFFF_FFFF (R355). -/
def crc32c (bs : List Byte) : Nat := (bs.foldl (fun x b => crcBits 8 (x ^^^ b.toNat)) 0xFFFFFFFF) ^^^ 0xFFFFFFFF

/-- The bytes of words, little-endian (R5). -/
def wordBytes (ws : List Word) : List Byte := (ws.map fun w => leBytes 4 w.toNat).flatten

/-- The words of a byte string, little-endian, the last padded with zeros. -/
def bytesWords : List Byte → List Word
  | a :: b :: c :: e :: r =>
    BitVec.ofNat 32 (a.toNat + 0x100 * b.toNat + 0x10000 * c.toNat + 0x1000000 * e.toNat) :: bytesWords r
  | [] => []
  | r => [BitVec.ofNat 32 (r.foldr (fun b x => b.toNat + 0x100 * x) 0)]

/-- The words of an entry (R355): header, data, check word. -/
def entryWords (ty band idx src : Nat) (data : List Word) : List Word :=
  let h : Word := BitVec.ofNat 32 (ty * 0x1000000 + band * 0x200000 + idx * 0x1000 + src * 0x400 + data.length)
  let ws := h :: data
  ws ++ [BitVec.ofNat 32 (crc32c (wordBytes ws))]

/-- The offset of an entry within its copy (R354, R380). -/
def entryOff (ty band idx : Nat) : Nat :=
  match ty with
  | 0x01 => 0
  | 0x02 => 0x100 + 40 * idx
  | 0x03 => 0x200 + 40 * (8 * idx + band)
  | 0x04 => 0xFC00 + 24 * idx
  | 0x05 => 0x10E00 + 40 * idx
  | 0x06 => 0x12C00 + 24 * idx
  | 0x07 => 0x13E00 + 16 * idx
  | 0x09 => 0x14A80
  | 0x08 => 0x15580 + 56 * (8 * idx + band)
  | 0x0A => 612 * idx
  | 0x0B => 0x1DE20 + 28 * idx
  | _ => 0x1F320

/-- Words stored at consecutive word addresses of a copy. -/
def copyPut (m : SMap Word) (k : Nat) : List Word → SMap Word
  | [] => m
  | w :: r => copyPut (smSet wordZero m k w) (k + 1) r

/-- Words read at consecutive word addresses of a copy. -/
def copyGet (m : SMap Word) (k n : Nat) : List Word := (List.range n).map fun i => smGet wordZero m (k + i)

/-- Whether a type is held in the Patina store rather than in the Catalogue (R380). -/
def inPatina (ty : Nat) : Bool := decide (0x0A ≤ ty)

/-- An entry written to copy A and then to copy B (R357). -/
def entryPut (d : Dev) (ty band idx : Nat) (ws : List Word) : Dev :=
  let k := entryOff ty band idx / 4
  if inPatina ty then { d with cat := { d.cat with pa := copyPut d.cat.pa k ws, pb := copyPut d.cat.pb k ws } }
  else { d with cat := { d.cat with a := copyPut d.cat.a k ws, b := copyPut d.cat.b k ws } }

/-- Writes an entry with its header and check word. -/
def entryWrite (d : Dev) (ty band idx src : Nat) (data : List Word) : Dev := entryPut d ty band idx (entryWords ty band idx src data)

/-- The data words of one copy of an entry: none when it is empty or its check word fails (R355). -/
def copyData (m : SMap Word) (ty band idx n : Nat) : Option (List Word) :=
  let ws := copyGet m (entryOff ty band idx / 4) (n + 2)
  match ws with
  | h :: _ =>
    if bits h 31 24 = ty ∧ bits h 7 0 = n ∧ ws.getLast? = some (BitVec.ofNat 32 (crc32c (wordBytes ws.dropLast))) then
      some ((ws.drop 1).take n)
    else none
  | [] => none

/-- The data words of an entry of `n` data words: copy A when it is good, else copy B; none when it is absent (R357, R358). -/
def entryData (d : Dev) (ty band idx n : Nat) : Option (List Word) :=
  if inPatina ty then (copyData d.cat.pa ty band idx n).or (copyData d.cat.pb ty band idx n)
  else (copyData d.cat.a ty band idx n).or (copyData d.cat.b ty band idx n)

/-- The source of an entry that is there (R355, SRC). -/
def entrySrc (d : Dev) (ty band idx n : Nat) : Option Nat :=
  (entryData d ty band idx n).map fun _ => bits (smGet wordZero d.cat.a (entryOff ty band idx / 4)) 11 10

/-- The band of a thermal node (THM_BAND): 0 to 7 the banks, 8 FD, 9 HD. -/
def nodeBand (d : Dev) (n : Nat) : Nat := fld d bTHM THM_BAND (3 * n + 2) (3 * n)

/-- The pair that serves a channel: its own, or the reserve pair of its bank (R356, CH_MSTS.SERVED). -/
def servingPair (d : Dev) (c : Chan) : Nat := if flag d (chBlk c) CH_MSTS 18 then 192 + c.bank.val else c.val

/-- Whether the Catalogue holds a converter set for a pair in the band of its bank (R137, R358). -/
def hasSet (d : Dev) (pair bank : Nat) : Bool := (entryData d 0x03 (nodeBand d bank) pair 8).isSome

/-- Whether the reference entry of a bank's die is there (R358). -/
def hasRef (d : Dev) (b : Bank) : Bool := (entryData d 0x02 0 (b.val / 4) 8).isSome

/-- The base dead-time guard of a channel in the band of its bank (R356, R358). -/
def baseGuard (d : Dev) (c : Chan) : Nat :=
  match entryData d 0x06 0 c.val 4 with
  | some ws =>
    let n := nodeBand d c.bank.val
    let w := ws.getD (n / 2) 0
    min 1023 (if n % 2 = 0 then bits w 15 0 else bits w 31 16)
  | none => 1023

/-- The comparator trim word of a channel in the band of its bank (R356, R358): trims 0 and guard 63 when it is absent. -/
def baseTrim (d : Dev) (c : Chan) : Word :=
  match entryData d 0x05 0 c.val 8 with
  | some ws => ws.getD (nodeBand d c.bank.val) 0
  | none => 0x3F000000

/-- The shunt resistance in nΩ (R361): R_REF, corrected from a valid aux temperature when TSRC asks for it; `none` keeps the last value. -/
def shuntOf (d : Dev) (c : Chan) : Option Word :=
  match entryData d 0x04 0 c.val 4 with
  | none => some 0
  | some ws =>
    let r := ws.getD 0 0
    if !bit (ws.getD 3 0) 0 then some r
    else
      let t := sx 16 (fld d (chBlk c) CH_T 15 0)
      if t = -0x8000 ∨ fld d (chBlk c) CH_AUXCFG 1 0 ≠ 1 then none
      else
        let dt := t - sx 16 (bits (ws.getD 2 0) 15 0)
        let num : Int := r.toNat * (10000000000 + (ws.getD 1 0).toInt * dt)
        some (BitVec.ofInt 32 ((2 * num + 10000000000) / 20000000000))

/-- What CH_SHUNT takes when an entry comes into force: its value at the temperature, else its last value (R361). DESIGN CHOICE (log 99):
R_REF where there is no last value. -/
def shuntNow (d : Dev) (c : Chan) : Word :=
  match shuntOf d c with
  | some r => r
  | none =>
    if rd d (chBlk c) CH_SHUNT ≠ 0 then rd d (chBlk c) CH_SHUNT
    else match entryData d 0x04 0 c.val 4 with
      | some ws => ws.getD 0 0
      | none => 0

/-! ### Digests (R195, R391) -/

/-- A SHA-512 digest as 64 bytes. -/
def shaBytes (bs : List Byte) : List Byte := leBytes 64 (Config.sha512 bs)

/-- CATDIG: the digest of copy A of the Catalogue (R391). -/
def catDigest (d : Dev) : Nat := Config.sha512 (wordBytes (copyGet d.cat.a 0 65536))

/-- A word of a firmware image slot (R384, R387). -/
def slotWord (d : Dev) (s : Fin 4) (k : Nat) : Word :=
  let x := d.sec.slots.get s
  smGet (if x.erased then wordZero else Config.factoryImage s.val) x.words k

/-- Bytes of a firmware image slot from a byte offset that is a multiple of 4. -/
def slotBytes (d : Dev) (s : Fin 4) (off n : Nat) : List Byte :=
  (wordBytes ((List.range ((n + 3) / 4)).map fun i => slotWord d s (off / 4 + i))).take n

/-- The DIGEST field of a firmware image (R384). -/
def imageDigest (d : Dev) (s : Fin 4) : List Byte := slotBytes d s 0x10 64

/-- The running host slot, 0 or 1 (SEC_BOOT.ACTH). -/
def hostSlot (d : Dev) : Fin 4 := if flag d bSEC SEC_BOOT 0 then 1 else 0

/-- The running field slot, 2 or 3 (SEC_BOOT.ACTF). -/
def fieldSlot (d : Dev) : Fin 4 := if flag d bSEC SEC_BOOT 1 then 3 else 2

/-- The digest field of a recipe image (R195): words 4 to 11. -/
def recipeDigest (m : Mem) (d : Dev) (b : Bank) (s : Nat) : List Byte :=
  ((List.range 8).map fun i => leBytes 8 (progWord' m b (slotBase' d b s + 4 + i))).flatten
where
  /-- A program store word (R198). -/
  progWord' (m : Mem) (b : Bank) (i : Nat) : Nat := m.read64 (0x40000000 + b.val * 0x04000000 + 8 * (i % 65536))
  /-- The base of an image (BK_IMGs_A). -/
  slotBase' (d : Dev) (b : Bank) (s : Nat) : Nat := fld d (.bank b .bk) (BK_IMG_A + 8 * s) 31 16

/-! ### Patina outputs (R376, R378) -/

/-- Whether Patina's defaults apply to a pair: fewer than 24 turns completed (R376). -/
def pairDefault (d : Dev) (pair : Nat) : Bool := decide ((smGet wordZero d.cat.turns pair).toNat < 24)

/-- The reference ageing coefficient A of a die, in 0.01 ppm (R376): from its reference entry, else the default. -/
def dieA (d : Dev) (die : Nat) : Nat :=
  match entryData d 0x02 0 die 8 with
  | some ws => max 100 (ws.getD 4 0).toNat
  | none => 250

/-- The square of u_ref of a die, in (0.01 ppm)² times 31,536,000 (R376): A² times the seconds since CAT_LAST. -/
def dieURef (d : Dev) (die : Nat) : Nat := dieA d die * dieA d die * (opsec d - rd d bCAT CAT_LAST_OPSEC).toNat

/-- The square root of a number as a register shows it: the unit below, or the unit above when it is not exact, which the spec leaves open. -/
def rootShown (n : Nat) (x : Rat) : Nat := let s := isqrt x.floor.toNat; if ((s * s : Nat) : Rat) = x then s else s + b2n (Config.meanUp n)

/-- CAT_STS.DUE: the operating seconds have reached CAT_DUE_OPSEC (R378). -/
def catDue (d : Dev) : Bool := decide ((rd d bCAT CAT_DUE_OPSEC).toNat ≤ (opsec d).toNat)

/-- CAT_STS.NOHIST: Patina's defaults apply to at least one of the 200 pairs (R376). -/
def catNohist (d : Dev) : Bool := (List.range 200).any fun n => pairDefault d n

/-- CAT_DUE_DAYS: the whole days that remain, 0 when due (R378). -/
def catDueDays (d : Dev) : Nat := ((rd d bCAT CAT_DUE_OPSEC).toNat - (opsec d).toNat) / 86400

/-- The die of a pair (R9, R356). -/
def pairDie (pair : Nat) : Nat := if pair < 192 then pair / 96 else (pair - 192) / 4

/-- The square of u_ref of a die as Patina last computed it (R379), in (0.01 ppm)² times 31,536,000. -/
def urefSq (d : Dev) (die : Nat) : Nat := if die = 0 then d.cat.uref0 else d.cat.uref1

/-- u_ref of a die as registers and Colophons show it, in 0.01 ppm. -/
def urefOf (d : Dev) (die : Nat) : Nat := rootShown (d.cat.draw + 800 + die) ((urefSq d die : Rat) / 31536000)

/-- A halfword of a word: the low one, or the high one. -/
def halfOf (w : Word) (hi : Bool) : Nat := if hi then bits w 31 16 else bits w 15 0

/-- The turns that a pair's history entry holds (R380): the operating seconds of each handback, to 8 s, and its eight coefficients. -/
def histTurns (d : Dev) (pair : Nat) : List (Int × List Int) :=
  match entryData d 0x0A 0 pair 151 with
  | some ws => (List.range (min 30 (bits (ws.getD 0 0) 4 0))).map fun i =>
      (((8 * bits (ws.getD (1 + 5 * i) 0) 28 0 : Nat) : Int),
        (List.range 8).map fun j => sx 16 (halfOf (ws.getD (2 + 5 * i + j / 2) 0) (decide (j % 2 = 1))))
  | none => []

/-- A least-squares fit of values against times (R375, R376): the square of the rate times `dt`, plus the square of the fit residual.
DESIGN CHOICE (log 107): the residual is the rms deviation from the fit, and turns of one time have rate 0. -/
def fitSq (pts : List (Int × Int)) (dt : Int) : Rat :=
  let n : Int := pts.length
  let st := (pts.map fun p => p.1).sum
  let sy := (pts.map fun p => p.2).sum
  let sxx := n * (pts.map fun p => p.1 * p.1).sum - st * st
  let sxy := n * (pts.map fun p => p.1 * p.2).sum - st * sy
  let syy := n * (pts.map fun p => p.2 * p.2).sum - sy * sy
  if pts = [] then 0
  else if sxx = 0 then (syy : Rat) / ((n * n : Int) : Rat)
  else ((sxy * dt * (sxy * dt) : Int) : Rat) / ((sxx * sxx : Int) : Rat) + ((syy * sxx - sxy * sxy : Int) : Rat) / ((sxx * n * n : Int) : Rat)

/-- The square of the fitted drift of a coefficient of a pair since its last handback (R376): 0 the gain of V, 1 of I, 2 the offset of
V, 3 of I, of I at the gain with number g; in 0.01 ppm, for the offset of V in 0.01 µV. An offset is held in 1/256 LSB, which is
0.78125 µV for V and 2^-23 of the converter full scale for I (R103, R104). -/
def fitted (d : Dev) (pair g k : Nat) : Rat :=
  let j := [1, 5 + g, 0, 2 + g].getD k 0
  let unit : Rat := if k = 2 then 78125 / 256000 else if k = 3 then 3125 / 64000 else 1
  let dt : Int := d.cat.outAt - (smGet wordZero d.cat.hand pair).toNat
  unit * unit * fitSq ((histTurns d pair).map fun t => (t.1, t.2.getD j 0)) (max 0 dt)

/-- The square of udrift of a pair without u_ref, in the units of `fitted`: the default, or the fitted value down to its floor (R376). -/
def driftSq (d : Dev) (pair g k : Nat) : Rat :=
  if pairDefault d pair then (if k = 2 then 40000 else 10000) else max (if k = 2 then 2500 else 900) (fitted d pair g k)

/-- The square of udrift_gain of a pair with the reference ageing of its die, in (0.01 ppm)² (R376). -/
def driftGainSq (d : Dev) (pair g k : Nat) : Rat := driftSq d pair g k + (urefSq d (pairDie pair) : Rat) / 31536000

/-- The number of the I gain that a pair's view shows. DESIGN CHOICE (log 107): the gain its channel is set to; gain 1 of a reserve pair. -/
def viewGain (d : Dev) (pair : Nat) : Nat := if h : pair < 192 then min 2 (fld d (chBlk ⟨pair, h⟩) CH_MCFG 1 0) else 0

/-- udrift_gain and udrift_off of a pair as CAT_PGAIN and CAT_POFS show them (R376). -/
def pairDrift (d : Dev) (pair : Nat) : Word × Word :=
  let g := viewGain d pair
  let show_ (k : Nat) (x : Rat) : Nat := min 0xFFFF (rootShown (d.cat.draw + 4 * pair + k) x)
  (BitVec.ofNat 32 (show_ 1 (driftGainSq d pair g 1) * 65536 + show_ 0 (driftGainSq d pair g 0)),
   BitVec.ofNat 32 (show_ 3 (driftSq d pair g 3) * 65536 + show_ 2 (driftSq d pair g 2)))

end Sys2Proof.Machine
end

