-- ==== Sys2Proof/Machine/Uncertainty.lean ====
section
/-! DEFINITION. Reported uncertainties (R133, R135 to R137, R257, R266): the standard uncertainties of a channel, the noise table, and the encoding. -/

namespace Sys2Proof.Machine

open Sys2Proof

/-- Whether the channel has no shunt characterisation: CH_SHUNT reads 0 (R104). -/
def noShunt (d : Dev) (c : Chan) : Bool := decide (rd d (chBlk c) CH_SHUNT = 0)

/-- A number squared. -/
def sqr (x : Rat) : Rat := x * x

/-- What a channel's measurement path was at the modulator sample boundary of the present instant, before what begins there (R115, R131). -/
def measAt (d : Dev) (k : ChanSt) : Meas :=
  match k.meas.bef with
  | some b =>
    if b.at_ = d.tb.mono then
      { k.meas with cum := b.cum, q := b.q, e := b.e, uncs := b.uncs, absV := b.absV, absI := b.absI, hoV := b.hoV, hoI := b.hoI,
                    recFl := b.recFl, postFl := b.postFl, ovrI := b.ovrI }
    else k.meas
  | none => k.meas

/-- The flags noted at the present instant, which belong to the interval that begins there. -/
def sinceAt (d : Dev) (k : ChanSt) : Nat :=
  match k.meas.bef with
  | some b => if b.at_ = d.tb.mono then k.meas.since else 0
  | none => 0

/-- What a channel's measurement path is now is kept, unless it is kept for this instant already. -/
def befSave (d : Dev) (c : Chan) : Dev :=
  modMeas d c fun m =>
    match m.bef with
    | some b => if b.at_ = d.tb.mono then m else keep d.tb.mono m
    | none => keep d.tb.mono m
where
  /-- The state before an instant. -/
  keep (t : Nat) (m : Meas) : Meas :=
    { m with since := 0, bef := some { at_ := t, cum := m.cum, q := m.q, e := m.e, uncs := m.uncs, absV := m.absV, absI := m.absI,
                                       hoV := m.hoV, hoI := m.hoI, recFl := m.recFl, postFl := m.postFl, ovrI := m.ovrI } }

/-! ### The noise table (R135) -/

/-- The noise at each data rate in S/s, in 0.01 µV: of V, and of I at gains 1, 4 and 16 (R135). -/
def noiseRows : List (Nat × List Nat) :=
  [ (1, [10, 20, 8, 5]), (10, [30, 60, 25, 15]), (1000, [320, 600, 250, 150]), (62500, [2500, 4800, 2000, 1200]),
    (250000, [6000, 11000, 4500, 2800]) ]

/-- The square of the noise in µV² at the data rate of 10 MHz ÷ dec, for a column of the table: a row's own value, or interpolated
linearly in log(noise) against log(data rate) (R135). -/
def noiseBetween (col dec : Nat) : List (Nat × List Nat) → Span
  | (ra, la) :: (rb, lb) :: r =>
    let na := la.getD col 0
    let nb := lb.getD col 0
    if ra * dec = 10000000 then exactly (sqr ((na : Rat) / 100))
    else if rb * dec = 10000000 then exactly (sqr ((nb : Rat) / 100))
    else if 10000000 < rb * dec then
      spanScale (sqr ((na : Rat) / 100)) (fixSpan (expFix (2 * lnFix nb na * lnFix 10000000 (ra * dec) / lnFix rb ra)))
    else noiseBetween col dec ((rb, lb) :: r)
  | [(_, l)] => exactly (sqr ((l.getD col 0 : Nat) / 100))
  | [] => exactly 0

/-- The square of the noise in µV² at the data rate of a decimation ratio. -/
def noiseRate (col dec : Nat) : Span := noiseBetween col dec noiseRows

/-- The square of the noise in µV² of a line-cycle integration over n modulator samples (R135): the 10 S/s row times 100 ms ÷ T. -/
def noiseOver (col n : Nat) : Span :=
  spanScale ((1000000 : Rat) / ((max 1 n : Nat) : Rat)) (noiseRate col 1000000)

/-- What a result's noise is taken over: a line-cycle integration of n modulator samples, an output of the decimation filter at a
ratio, or, where the spec gives none, a free value drawn by a number. -/
inductive NoiseOf where
  | over (n : Nat)
  | rate (dec : Nat)
  | open_ (n : Nat)
deriving DecidableEq, Repr

/-- The square of the noise in µV². -/
def noiseSq (s : NoiseOf) (col : Nat) : Span :=
  match s with
  | .over n => noiseOver col n
  | .rate dec => noiseRate col dec
  | .open_ n => exactly (Config.free n : Rat)

/-- The column of a channel's I noise. -/
def noiseCol (d : Dev) (c : Chan) : Nat := 1 + min 2 (fld d (chBlk c) CH_MCFG 1 0)

/-! ### Standard uncertainties (R136, R361, R376) -/

/-- The current gain of a channel: 1, 4 or 16 (R103). -/
def gainOf (d : Dev) (c : Chan) : Nat := 4 ^ min 2 (fld d (chBlk c) CH_MCFG 1 0)

/-- The rated input range of a channel's gain in µV (R103). -/
def ratedUv (d : Dev) (c : Chan) : Rat := 125000 / (gainOf d c : Rat)

/-- The band whose converter set a pair uses: the band in force, or the nearest one that holds a set; none when no band does (R137, R358).
DESIGN CHOICE (log 101): of two equally near ones the lower. -/
def setBand (d : Dev) (pair band : Nat) : Option Nat :=
  ((List.range 8).flatMap fun k => [band - k, band + k]).find? fun b => decide (b < 8) && (entryData d 0x03 b pair 8).isSome

/-- A calibration or band term of R136 in 0.0001 ppm or 0.0001 µV at the input. The spec names the Catalogue and the band as their
sources and gives no values. 0 to 3 are ucal: gain of V, gain of I, offset of V, offset of I; 4 to 7 uband, in the same order. The
band term of a set with SRC 1 is doubled (R359). -/
def termOf (d : Dev) (c : Chan) (band k : Nat) : Rat :=
  let pair := servingPair d c
  let from_ := setBand d pair band
  let x := Config.calTerm k pair (gainOf d c) band ((from_.bind fun b => entryData d 0x03 b pair 8).getD [])
  let twice := decide (4 ≤ k) && decide ((from_.bind fun b => entrySrc d 0x03 b pair 8) = some 1)
  ((if twice then 2 * x else x : Nat) : Rat) / 10000

/-- The square of ushunt in ppm² (R361): rss of U and |TC| x 2 K. -/
def shuntSq (d : Dev) (c : Chan) : Rat :=
  match entryData d 0x04 0 c.val 4 with
  | some ws => sqr ((bits (ws.getD 2 0) 31 16 : Nat) / 10) + sqr (((ws.getD 1 0).toInt : Rat) / 50)
  | none => 0

/-- The squares of a channel's standard uncertainties in a band, without noise (R136). The offset drift of I is held in ppm of range. -/
def uncTerms (d : Dev) (c : Chan) (band : Nat) : UncSeg :=
  let t := termOf d c band
  let pair := servingPair d c
  let g := min 2 (fld d (chBlk c) CH_MCFG 1 0)
  let drift (k : Nat) : Rat := driftGainSq d pair g k / 10000
  { n := 0,
    gv := sqr (t 0) + drift 0 + sqr (t 4),
    gi := sqr (t 1) + drift 1 + sqr (t 5) + shuntSq d c,
    ov := sqr (t 2) + driftSq d pair g 2 / 10000 + sqr (t 6),
    oi := sqr (t 3) + driftSq d pair g 3 / 10000000000000000 * sqr (ratedUv d c) + sqr (t 7) }

/-- The squares of a channel's standard uncertainties at this instant. -/
def uncNow (d : Dev) (c : Chan) : UncSeg := uncTerms d c (nodeBand d c.bank.val)

/-- A modulator sample that the integrators take enters the spans of R136. -/
def uncAdd (u : UncSeg) : List UncSeg → List UncSeg
  | s :: r => if { s with n := 0 } = u then { s with n := s.n + 1 } :: r else { u with n := 1 } :: s :: r
  | [] => [{ u with n := 1 }]

/-! ### Encoding (R133) -/

/-- The smallest encodable uncertainty not below `u`: exponent in [15:11], mantissa in [10:0]; 0xFFFF when none is (R133). -/
def encodeUnc (u : Nat) : Nat :=
  match (List.range 32).find? fun e => decide ((u + 2 ^ e - 1) / 2 ^ e < 2048) with
  | some e => e * 2048 + (u + 2 ^ e - 1) / 2 ^ e
  | none => 0xFFFF

/-- a + k √q rounded up for q within bounds; where the bounds round to different numbers, one of these, drawn by `n`. -/
def rootUp (n : Nat) (a k : Rat) (q : Span) : Nat :=
  let lo := ceilRoot a k q.1
  let hi := ceilRoot a k q.2
  if hi ≤ lo then lo else lo + Config.free n % (hi - lo + 1)

/-- What R136 needs of the interval of a V or I result: the source of its noise, its modulator samples and how many of V came from the
fast path, whether WARMUP applied in it, and the square in µV² of the interference residual of an irregular one (R112). -/
structure UncIn where
  noise : NoiseOf
  smp   : Nat := 1
  fast  : Nat := 0
  warm  : Bool
  res   : Nat := 0
deriving DecidableEq, Repr

/-- U(V) in 0.25 µV, rounded up (R136). -/
def uncV (n : Nat) (d : Dev) (c : Chan) (x : Int) (s : UncIn) : Nat :=
  let u := uncNow d c
  let v : Rat := (x : Rat) / 4
  let share : Rat := (s.fast : Rat) / ((max 1 s.smp : Nat) : Rat)
  let fast : Rat := if s.fast = 0 then 0 else sqr (share * ((if v < 0 then -v else v) / 2000 + 400))
  let q := spanAdd (noiseSq s.noise 0) (exactly (u.gv * sqr v / 1000000000000 + u.ov + fast + (s.res : Rat)))
  if s.warm then rootUp n 800 32 q else rootUp n 0 8 q

/-- U(I) in 100 nA, rounded up (R136): the shunt turns µV at the input into current. -/
def uncI (n : Nat) (d : Dev) (c : Chan) (x : Int) (s : UncIn) : Nat :=
  let u := uncNow d c
  let r : Rat := (((rd d (chBlk c) CH_SHUNT).toNat : Nat) : Rat)
  let v : Rat := (x : Rat) * r / 10000000000
  let q := spanAdd (noiseSq s.noise (noiseCol d c)) (exactly (u.gi * sqr v / 1000000000000 + u.oi + (s.res : Rat)))
  let k : Rat := 20000000000 / r
  if s.warm then rootUp n (k * ratedUv d c / 10000) (4 * k) q else rootUp n 0 k q

/-! ### Charge and energy (R136) -/

/-- The square of the time-weighted mean of a component over its spans: exact over a single one, else within 2^-60. -/
def meanSq (l : List (Nat × Span)) : Span :=
  match l with
  | [(_, q)] => q
  | _ =>
    let n : Rat := ((max 1 (l.map fun x => x.1).sum : Nat) : Rat)
    let root (x : Rat) : Nat := isqrt (x * 2 ^ 128).floor.toNat
    let lo := (l.map fun x => x.1 * root x.2.1).sum
    let hi := (l.map fun x => x.1 * (root x.2.2 + 1)).sum
    (sqr ((lo : Rat) / n / 2 ^ 64), sqr ((hi : Rat) / n / 2 ^ 64))

/-- The square of the mean of a component without noise. -/
def gainMean (l : List UncSeg) (f : UncSeg → Rat) : Span := meanSq (l.map fun s => (s.n, exactly (f s)))

/-- The square of the mean of an offset with the noise of the result's interval, and the shadow differences of the handovers. -/
def offMean (l : List UncSeg) (noise : Span) (f : UncSeg → Rat) (hand : Rat) : Span :=
  spanAdd (meanSq (l.map fun s => (s.n, spanAdd (exactly (f s)) noise))) (exactly hand)

/-- U(Q) in nC, rounded up (R136). -/
def uncQ (n : Nat) (d : Dev) (c : Chan) (q : Int) (s : NoiseOf) : Nat :=
  let m := measAt d (ch d c)
  let r : Rat := (((rd d (chBlk c) CH_SHUNT).toNat : Nat) : Rat)
  let t : Rat := (((m.uncs.map fun s => s.n).sum : Nat) : Rat)
  let o := offMean m.uncs (noiseSq s (noiseCol d c)) (fun s => s.oi) ((m.hoI : Rat) * sqr (r / 10000000000))
  rootUp n 0 2 (spanAdd (spanScale (sqr (q : Rat) / 1000000000000) (gainMean m.uncs fun s => s.gi))
    (spanScale (sqr (t * 100000 / r)) o))

/-- U(E) in µJ, rounded up (R136). -/
def uncE (n : Nat) (d : Dev) (c : Chan) (e : Int) (s : NoiseOf) : Nat :=
  let m := measAt d (ch d c)
  let r : Rat := (((rd d (chBlk c) CH_SHUNT).toNat : Nat) : Rat)
  let oi := offMean m.uncs (noiseSq s (noiseCol d c)) (fun s => s.oi) ((m.hoI : Rat) * sqr (r / 10000000000))
  let ov := offMean m.uncs (noiseSq s 0) (fun s => s.ov) ((m.hoV : Rat) / 16)
  let g := spanAdd (gainMean m.uncs fun s => s.gv) (gainMean m.uncs fun s => s.gi)
  rootUp n 0 2 (spanAdd (spanScale (sqr (e : Rat) / 1000000000000) g)
    (spanAdd (spanScale (sqr ((m.absV : Rat) / (40000 * r))) oi) (spanScale (sqr ((m.absI : Rat) / 100000000000000)) ov)))

/-! ### What a result reports -/

/-- A quantity with a reported uncertainty. -/
inductive Qty where
  | v | i | q | e
deriving DecidableEq, Repr

/-- The interference residual of an interval with given flags: a free value when it is irregular (R112, log 101). -/
def withRes (d : Dev) (fl : Nat) (s : UncIn) : UncIn × Dev :=
  if fl / 0x10 % 2 = 1 then let x := fresh d; ({ s with res := Config.free x.1 }, x.2) else (s, d)

/-- The expanded uncertainty of a result in whole units, rounded up (R136). Where `sum` marks the sum over a locked group, the spec states
none and it is a free value. -/
def uncUnits (d : Dev) (c : Chan) (sum : Bool) (qty : Qty) (x : Int) (s : UncIn) : Nat × Dev :=
  let f := fresh d
  if sum then (Config.free f.1, f.2)
  else
    (match qty with
      | .v => uncV f.1 d c x s
      | .i => uncI f.1 d c x s
      | .q => uncQ f.1 d c x s.noise
      | .e => uncE f.1 d c x s.noise, f.2)

/-- The encoded uncertainty of a result (R133, R136); 0xFFFF when it is unknown or unbounded. -/
def uncOf (d : Dev) (c : Chan) (unknown sum : Bool) (qty : Qty) (x : Int) (s : UncIn) : Nat × Dev :=
  if unknown then (0xFFFF, d)
  else let u := uncUnits d c sum qty x s; (encodeUnc u.1, u.2)

/-- The band of a list whose band term k is the largest; the band now when the list is empty (R259). -/
def worstBand (d : Dev) (c : Chan) (k : Nat) (bands : List Nat) : Nat :=
  bands.foldl (fun a b => if sqr (termOf d c a k) < sqr (termOf d c b k) then b else a) (bands.headD (nodeBand d c.bank.val))

/-- The square of the gain terms of an impedance or pulse result, ug_V and ug_I by rss, in ppm² (R257, R266), with the largest band term
of the bands that its span saw (R259). -/
def gainSq (d : Dev) (c : Chan) (bands : List Nat) : Rat :=
  (uncTerms d c (worstBand d c 4 bands)).gv + (uncTerms d c (worstBand d c 5 bands)).gi

end Sys2Proof.Machine
end

