-- ==== Sys2Proof/Machine/Records.lean ====
section
/-! DEFINITION. Interval means, the 64-byte records and the record spool (R22, R23, R31, R110, R129 to R132, R206, R222). -/

namespace Sys2Proof.Machine

open Sys2Proof

/-- A signed quotient reported in whole units: exact when it divides, else the unit below or the unit above, which the
spec leaves open (a free value). -/
def meanUnits (d : Dev) (s : Int) (n : Nat) : Int × Dev :=
  if n = 0 then (0, d)
  else if s % n = 0 then (s / n, d)
  else let x := fresh d; (s / n + b2n (Config.meanUp x.1), x.2)

/-- Q of a channel in nC, rounded towards minus infinity (R113); 0 without a shunt (R104). -/
def chQ (d : Dev) (c : Chan) : Int := if noShunt d c then 0 else (ch d c).meas.q / 100000

/-- E of a channel in µJ, rounded towards minus infinity (R113); 0 without a shunt (R104). -/
def chE (d : Dev) (c : Chan) : Int := if noShunt d c then 0 else (ch d c).meas.e / 400000000000000

/-- The sum of a quantity over a channel's group, or over the channel alone (R31). -/
def grpSum (d : Dev) (c : Chan) (f : ChanSt → Int) : Int := ((members d c).map fun m => f (ch d m)).foldl (· + ·) 0

/-- Flags of R132 that hold as long as a condition does: WARMUP, re-lock cycle (R112), reserve pair, holdover, synthesised cycle,
substitution, no calibration or an overloaded reference of the die (R428), aux slot. -/
def contFlags (d : Dev) (c : Chan) : Nat :=
  b2n (flag d (chBlk c) CH_MSTS 19) + 2 * b2n (ch d c).meas.auxFrom.isSome + 4 * b2n (flag d (chBlk c) CH_MSTS 18)
    + 0x10 * b2n d.tb.fl.relock + 0x20 * b2n d.tb.fl.synth + 0x40 * b2n (flag d bXC XC_STS 9)
    + 0x800 * b2n (decide (fld d (bankOf c .rsv) RSV_SUBST 4 0 = c.inBank)) + 0x2000 * b2n (noShunt d c || (ch d c).meas.noCal || d.refLoad.contains (c.bank.val / 4))

/-- Whether the present instant lies in the span whose flags the EIS engine of a channel gathers: the measurement window of an EIS step
(R258), the whole of any other. -/
def eisGathers (d : Dev) (c : Chan) : Bool :=
  match (ch d c).eis.span with
  | some (a, b) => decide (0 ≤ tsDiff (fieldNow d) a) && decide (tsDiff (fieldNow d) b < 0)
  | none => true

/-- Flags that the EIS engine of a channel gathers (R258, R267). -/
def eisNote (d : Dev) (c : Chan) (fl : Nat) : Dev :=
  if eisGathers d c then modCh d c fun k => { k with eis := { k.eis with fl := k.eis.fl ||| fl } } else d

/-- Flags added to the running intervals of a channel's periodic, POST and step records, of its line-cycle integration and of its EIS
engine (R132). -/
def noteFlags (d : Dev) (c : Chan) (fl : Nat) : Dev :=
  let li (x : LineInt) : LineInt := { x with fl := x.fl ||| fl }
  let st (x : Step) : Step := { x with flags := x.flags ||| fl }
  let d := modMeas (befSave d c) c fun m =>
    { m with recFl := m.recFl ||| fl, postFl := m.postFl ||| fl, since := m.since ||| fl, lineInt := m.lineInt.map li }
  let d := modMach d c fun m => { m with step := m.step.map st }
  eisNote d c fl

/-- The spool slots in use (XC_SPOOL_LVL). -/
def spoolLevel (d : Dev) : Nat :=
  (d.xc.spool.map fun i => match i with | .record _ _ => 1 | .body _ n _ => n).foldl (· + ·) 0

/-- A record of 64 bytes enters the spool, or is dropped and counted when it would leave fewer free slots than the
Colophon reserve (R22, R23). -/
def spoolRecord (d : Dev) (c : Chan) (bytes : List Byte) : Dev :=
  if spoolLevel d < 28352 then
    modMeas { d with xc := { d.xc with spool := d.xc.spool ++ [.record (some c) bytes] } } c fun m => { m with lost := 0 }
  else
    let d := raEvent (bump d bXC XC_SPOOL_DROP) bXC XC_STS 0x8
    let d := modMeas d c fun m => { m with lost := satInc 0xFFFF m.lost }
    fieldEvent d bXC 0x8024 (locCode 1 0 31 7 7 0) (rd d bXC XC_SPOOL_DROP) 0

/-- The next SEQ of a channel's records (R130). -/
def nextSeq (d : Dev) (c : Chan) : Dev := wr d (chBlk c) CH_RECSEQ (rd d (chBlk c) CH_RECSEQ + 1)

/-- The fields of a measurement record that differ between its kinds (R130, R206, R222); `noI` when there is no current result (R286).
`noise` is what its noise is taken over; `smp` and `fast` count the modulator samples of the interval and those of the fast path. -/
structure RecBody where
  type : Nat
  ts   : TS
  v    : Int
  i    : Int
  at30 : Nat
  fl   : Nat
  step : Nat
  qe   : Option (Int × Int) := none
  noI  : Bool := false
  noise : NoiseOf
  smp  : Nat := 1
  fast : Nat := 0
deriving DecidableEq, Repr

/-- Makes a record with the layout of R130 and the channel's integrators at this instant. -/
def makeRecord (d : Dev) (c : Chan) (r : RecBody) : Dev :=
  let d := nextSeq d c
  let m := measAt d (ch d c)
  let noI := noShunt d c
  let full := (members d c).any fun x => (measAt d (ch d x)).ovrI
  let ovI := noI || full || decide (r.fl / 0x100 % 2 = 1)
  let ovV := decide (r.fl / 0x80 % 2 = 1)
  let qe := r.qe.getD (grpSum d c (fun k => (measAt d k).q), grpSum d c (fun k => (measAt d k).e))
  let q := if noI then 0 else qe.1 / 100000
  let e := if noI then 0 else qe.2 / 400000000000000
  let i := if noI || r.noI then 0 else r.i
  let none_ := decide (r.smp = 0)
  let sum := decide (1 < (members d c).length)
  let s : UncIn := { noise := r.noise, smp := r.smp, fast := r.fast, warm := decide (r.fl % 2 = 1) }
  let sv := withRes d r.fl s
  let uv := uncOf sv.2 c (none_ || ovV) false .v r.v sv.1
  let si := withRes uv.2 r.fl s
  let ui := uncOf si.2 c (none_ || noI || r.noI || decide (r.fl / 0x100 % 2 = 1)) sum .i i si.1
  let uq := uncOf ui.2 c (none_ || ovI) sum .q q s
  let ue := uncOf uq.2 c (none_ || ovI || ovV) sum .e e s
  let d := ue.2
  let fl := r.fl ||| (0x100 * b2n full) ||| (0x400 * b2n (decide (m.lost ≠ 0)))
  let bytes := leBytes 1 r.type ++ leBytes 1 1 ++ leBytes 1 c.bank.val ++ leBytes 1 c.inBank
    ++ leBytes 4 (rd d (chBlk c) CH_RECSEQ).toNat ++ leBytes 8 r.ts.toNat ++ leBytes 8 (ltOf d r.ts)
    ++ leBytes 4 (ux 32 r.v) ++ leBytes 4 (ux 32 i) ++ leBytes 8 (ux 64 q) ++ leBytes 8 (ux 64 e)
    ++ leBytes 2 r.at30 ++ leBytes 2 fl ++ leBytes 2 uv.1 ++ leBytes 2 ui.1 ++ leBytes 2 uq.1 ++ leBytes 2 ue.1
    ++ leBytes 2 m.lost ++ leBytes 2 r.step
  let d := if fl / 0x2000 % 2 = 1 then
      modCh d c fun k => { k with colo := k.colo.map fun o => { o with flags := o.flags ||| 2 } } else d
  spoolRecord d c bytes

/-- Whether the aux result is stale for records (R120, R132). -/
def auxStale (d : Dev) (c : Chan) : Bool :=
  let mode := fld d (chBlk c) CH_AUXCFG 1 0
  let per := fld d (chBlk c) CH_AUXCFG 15 8
  decide (mode = 1 ∨ mode = 2) && (match (ch d c).meas.auxAt with
    | none => true
    | some t => decide (2 * per < (d.tb.mono - t) / (tapsPerUs * 100000)))

/-- The flags and aux field every measurement record takes from the channel at its end (R132). -/
def auxFlags (d : Dev) (c : Chan) : Nat :=
  0x1000 * b2n (auxStale d c) + 0x8000 * b2n (decide (fld d (chBlk c) CH_AUXCFG 1 0 = 2))

/-- How many modulator samples an interval holds that started at given totals, and how many of them came from the fast path. -/
def intervalSmp (d : Dev) (c : Chan) (k : Cum) : Nat × Nat := ((measAt d (ch d c)).cum.n - k.n, (measAt d (ch d c)).cum.nf - k.nf)

/-- The means of V and of the group's I over an interval that started at given totals (R31, R110). -/
def intervalMean (d : Dev) (c : Chan) (from_ : ChanSt → Cum) : (Int × Int) × Dev :=
  let k := ch d c
  let cum := (measAt d k).cum
  let n := cum.n - (from_ k).n
  let v := meanUnits d (cum.sv - (from_ k).sv) n
  let i := meanUnits v.2 (cum.sg - (from_ k).sg) n
  ((v.1, i.1), i.2)

/-- The interval of the next periodic record starts at this boundary. -/
def recStart (d : Dev) (c : Chan) : Dev :=
  modMeas d c fun m => { m with recFrom := (measAt d (ch d c)).cum, recFl := sinceAt d (ch d c), bef := m.bef.map fun b => { b with recFl := 0 } }

/-- The interval of the next POST record starts at this boundary. -/
def postStart (d : Dev) (c : Chan) : Dev :=
  modMeas d c fun m => { m with postFrom := (measAt d (ch d c)).cum, postFl := sinceAt d (ch d c), bef := m.bef.map fun b => { b with postFl := 0 } }

/-- A periodic record at a record boundary (R129), and the start of the next interval. -/
def periodicRecord (d : Dev) (c : Chan) : Dev :=
  let x := intervalMean d c fun k => k.meas.recFrom
  let d := x.2
  let w := intervalSmp d c (ch d c).meas.recFrom
  let fl := (measAt d (ch d c)).recFl ||| contFlags d c ||| auxFlags d c
  let d := makeRecord d c
    { type := 1, ts := fieldNow d, v := x.1.1, i := x.1.2, at30 := fld d (chBlk c) CH_T 15 0, fl := fl,
      step := (ch d c).mach.counter % 65536, noise := .over w.1, smp := w.1, fast := w.2 }
  recStart (postStart d c) c

/-- A POST record: its interval starts at the end of the previous periodic or POST record (R129, R188). -/
def postRecord (d : Dev) (c : Chan) : Dev :=
  let x := intervalMean d c fun k => k.meas.postFrom
  let d := x.2
  let w := intervalSmp d c (ch d c).meas.postFrom
  let fl := (measAt d (ch d c)).postFl ||| contFlags d c ||| auxFlags d c
  let d := makeRecord d c
    { type := 2, ts := fieldNow d, v := x.1.1, i := x.1.2, at30 := fld d (chBlk c) CH_T 15 0, fl := fl,
      step := (ch d c).mach.counter % 65536, noise := .over w.1, smp := w.1, fast := w.2 }
  postStart d c

/-- A device record of 64 bytes enters the spool, or is dropped (R22, R279): whether it entered. -/
def spoolDevice (d : Dev) (bytes : List Byte) : Bool × Dev :=
  if spoolLevel d < 28352 then (true, { d with xc := { d.xc with spool := d.xc.spool ++ [.record none bytes] } })
  else
    let d := raEvent (bump d bXC XC_SPOOL_DROP) bXC XC_STS 0x8
    (false, fieldEvent d bXC 0x8024 (locCode 1 0 31 7 7 0) (rd d bXC XC_SPOOL_DROP) 0)

/-- A closed Colophon body enters the spool; it is never dropped (R23). DESIGN CHOICE (log 98): a START is checked for room when it is
accepted and not again when it takes effect, so bodies that fit only singly may take the level past 32,768. -/
def spoolBody (d : Dev) (c : Chan) (bytes : List Byte) : Dev :=
  { d with xc := { d.xc with spool := d.xc.spool ++ [.body c ((bytes.length + 63) / 64) bytes] } }

/-- Whether the spool can take a body of a length (R23). -/
def spoolHasRoom (d : Dev) (len : Nat) : Bool := decide (spoolLevel d + (len + 63) / 64 ≤ 32768)

end Sys2Proof.Machine
end

