-- ==== Sys2Proof/Machine/Operands.lean ====
section
/-! DEFINITION. The operands of Autis instructions: the fields of the instruction word (R173), live operands (R172), registers and pairs (R170), and condition codes (R175). -/

namespace Sys2Proof.Machine

open Sys2Proof

/-! ### The instruction word (R173) -/

/-- A field [hi:lo] of an instruction word. -/
def iw (w hi lo : Nat) : Nat := w / 2 ^ lo % 2 ^ (hi + 1 - lo)

/-- OP. -/
def fOp (w : Nat) : Nat := iw w 63 58
/-- D. -/
def fD (w : Nat) : Nat := iw w 57 54
/-- A. -/
def fA (w : Nat) : Nat := iw w 53 50
/-- B. -/
def fB (w : Nat) : Nat := iw w 49 46
/-- One bit of MOD. -/
def fMod (w i : Nat) : Bool := decide (iw w (40 + i) (40 + i) = 1)
/-- A field [hi:lo] of MOD. -/
def fMods (w hi lo : Nat) : Nat := iw w (40 + hi) (40 + lo)
/-- A field [hi:lo] of IMM. -/
def fImm (w hi lo : Nat) : Nat := iw w hi lo
/-- IMM sign-extended from 40 bits. -/
def fImmS (w : Nat) : Int := sx 40 w

/-! ### Registers -/

/-- Register Wn. -/
def wReg (m : Mach) (n : Nat) : Word := m.w.get ⟨n % 16, Nat.mod_lt _ (by decide)⟩

/-- The machine with Wn replaced. -/
def setW (m : Mach) (n : Nat) (v : Word) : Mach := { m with w := m.w.set (n % 16) v (Nat.mod_lt _ (by decide)) }

/-- A pair as an unsigned 64-bit number: the even register holds the low word. -/
def wPair (m : Mach) (n : Nat) : Nat := (wReg m n).toNat + 0x100000000 * (wReg m (n + 1)).toNat

/-- The machine with a pair replaced. -/
def setPair (m : Mach) (n v : Nat) : Mach := setW (setW m n (BitVec.ofNat 32 v)) (n + 1) (BitVec.ofNat 32 (v / 0x100000000))

/-! ### Live operands (R172) -/

/-- P of a filtered output in 10 µW: V x I of it; the rounding of a product that is not a whole number of units is open. -/
def powerOf (v i : Int) : Int :=
  let x := v * i
  if x % 400000000 = 0 then x / 400000000 else x / 400000000 + b2n (Config.pUp v i)

/-- STEPT of the running or last step in µs (R172). -/
def stepT (d : Dev) (c : Chan) : Nat :=
  match (ch d c).mach.step with
  | some s => if s.started then (d.tb.mono - s.startMono) / tapsPerUs else (ch d c).mach.lastLen
  | none => (ch d c).mach.lastLen

/-- QS of the running or last step in nC (R172). -/
def stepQ (d : Dev) (c : Chan) : Int :=
  match (ch d c).mach.step with
  | some s => if s.started then (if noShunt d c then 0 else ((measAt d (ch d c)).q - s.q0) / 100000) else (ch d c).mach.lastQs
  | none => (ch d c).mach.lastQs

/-- ES of the running or last step in µJ (R172). -/
def stepE (d : Dev) (c : Chan) : Int :=
  match (ch d c).mach.step with
  | some s => if s.started then (if noShunt d c then 0 else ((measAt d (ch d c)).e - s.e0) / 400000000000000) else (ch d c).mach.lastEs
  | none => (ch d c).mach.lastEs

/-- Whether a live operand is 64 bits wide. -/
def opWide (code : Nat) : Bool := decide (code ∈ [3, 4, 6, 8, 9, 10, 11])

/-- The value of a live operand; 12 to 15 are reserved (R172). -/
def liveOperand (d : Dev) (c : Chan) (code : Nat) : Option Int :=
  let v := (rd d (chBlk c) CH_PV).toInt
  let i := (rd d (chBlk c) CH_PI).toInt
  match code with
  | 0 => some v
  | 1 => some i
  | 2 => some (powerOf v i)
  | 3 => some (chQ d c)
  | 4 => some (chE d c)
  | 5 => some (sx 16 (fld d (chBlk c) CH_T 15 0))
  | 6 => some (stepT d c)
  | 7 => some (rd d (chBlk c) CH_TERM).toNat
  | 8 => some (ltOf d (fieldNow d))
  | 9 => some (fieldNow d).toNat
  | 10 => some (stepQ d c)
  | 11 => some (stepE d c)
  | _ => none

/-! ### Modes and setpoints of steps (R184, R186, R203, R204) -/

/-- The mode and setpoint a requested step takes, as FORCE numbers modes: 0 CC, 1 CV, 2 CP, 3 CR, 4 OPEN. -/
def modeOf (m : Mach) : StepKind → Nat × Int
  | .force md sp => (md, sp)
  | .ramp md t _ => (md, t)
  | .hold => m.prevMode.getD (4, 0)
  | .rest => (4, 0)
  | .wave => (match m.playing with | some i => i.qty | none => 0, m.playLast)
  | .eis _ => (0, 0)
  | .pulse _ a _ _ => (0, a)

/-- Whether a step drives (R186). -/
def stepDrives (m : Mach) : StepKind → Bool
  | .force md _ => decide (md ≠ 4)
  | .hold => decide ((m.prevMode.getD (4, 0)).1 ≠ 4)
  | .rest => false
  | _ => true

/-- The value a RAMP starts from (R203). -/
def rampStart (d : Dev) (c : Chan) (md : Nat) : Int :=
  match (ch d c).mach.prevDrive with
  | some (pm, sp) => if pm = md then sp else rampLive d c md
  | none => rampLive d c md
where
  /-- The value at the start boundary of the quantity a mode regulates (R203). -/
  rampLive (d : Dev) (c : Chan) (md : Nat) : Int :=
    let v := (rd d (chBlk c) CH_PV).toInt
    let i := (rd d (chBlk c) CH_PI).toInt
    match md with
    | 0 => i
    | 1 => v
    | _ => powerOf v i

/-! ### Condition codes (R175) -/

/-- Whether a code of R175 is one that exists. -/
def condExists (code : Nat) : Bool :=
  decide (code ≤ 5) || decide (0x10 ≤ code ∧ code ≤ 0x1F) || decide (code ∈ [0x20, 0x21, 0x30, 0x31, 0x32, 0x33])

/-- Whether a code is arithmetic. -/
def condArith (code : Nat) : Bool := decide (code ≤ 5)

/-- Whether an arithmetic condition holds on the flags. -/
def condFlags (m : Mach) (code : Nat) : Bool :=
  match code with
  | 0 => m.z
  | 1 => !m.z
  | 2 => m.n != m.v
  | 3 => m.n == m.v
  | 4 => !m.z && (m.n == m.v)
  | _ => m.z || (m.n != m.v)

/-- Whether a pending or level condition holds in a snapshot (R178). -/
def condSnap (s : Snapshot) (code : Nat) : Bool :=
  if code < 0x18 then decide (s.ev / 2 ^ (code - 0x10) % 2 = 1)
  else if code < 0x20 then decide (s.gt / 2 ^ (code - 0x18) % 2 = 1)
  else match code with
    | 0x20 => s.cmpv
    | 0x21 => s.cmpi
    | 0x30 => s.trg
    | 0x31 => s.und
    | 0x32 => s.mld
    | _ => s.dfr

/-- The condition code of JCC, BEV and UNTIL: bits [5:4] are MOD[1:0], [3:0] are B. -/
def condCode (w : Nat) : Nat := fMods w 1 0 * 16 + fB w

/-- Clears a pending condition (R176); level conditions are never cleared. The snapshot's copy goes with it, so that one
occurrence is not taken twice. -/
def clearCond (m : Mach) (code : Nat) : Mach :=
  if 0x10 ≤ code ∧ code < 0x18 then
    { m with ev := m.ev &&& (255 - 2 ^ (code - 0x10)), snap := { m.snap with ev := m.snap.ev &&& (255 - 2 ^ (code - 0x10)) } }
  else match code with
    | 0x30 => { m with trg := false, snap := { m.snap with trg := false } }
    | 0x31 => { m with und := false, snap := { m.snap with und := false } }
    | 0x32 => { m with mld := false, snap := { m.snap with mld := false } }
    | 0x33 => { m with dfr := false, snap := { m.snap with dfr := false } }
    | _ => m

/-! ### Gates and output lines (R165, R221)

An instant at or after a gate's opening and before its closing is inside it. -/

/-- The gate opens at an instant; an open gate stays as it is. -/
def winOpen (w : Windows) (t : TS) : Windows :=
  match w.last with
  | (_, none) :: _ => w
  | _ => { count := w.count + 1, last := (t, none) :: w.last.take 1 }

/-- The gate closes at an instant; a closed gate stays as it is. -/
def winClose (w : Windows) (t : TS) : Windows :=
  match w.last with
  | (o, none) :: r => { w with last := (o, some t) :: r }
  | _ => w

/-- Whether an instant lies in a window. -/
def inWindow (x : TS × Option TS) (s : TS) : Bool :=
  decide (0 ≤ tsDiff s x.1) && (match x.2 with | some e => decide (tsDiff s e < 0) | none => true)

/-- The number of the window that an instant lies in, from 1; 0 outside the gate. -/
def winNo (w : Windows) (s : TS) : Nat :=
  match w.last.findIdx? fun x => inWindow x s with
  | some i => w.count - i
  | none => 0

/-- The level of group trigger line n: held by a channel or a remote holder, or pulsing (R221, R318). -/
def gtHigh (d : Dev) (n : Nat) : Bool :=
  (List.finRange 192).any (fun c => (ch d c).mach.holds.any fun h => decide (h.target = n))
    || decide (d.tb.mono < d.gtPulse.get ⟨n % 8, Nat.mod_lt _ (by decide)⟩)
    || (List.range 8).any fun g => decide (g = n) && flag d bSL (SL_GTMAP + 4 * g) 31
        && d.gtRemote.contains (fld d bSL (SL_GTMAP + 4 * g) 7 0)

/-- The windows of group trigger line n as they stand: an open one whose line is low has closed when its pulse ended (R165, R221). -/
def gtWindows (d : Dev) (n : Nat) : Windows :=
  let w := d.gtWin.getD n {}
  if gtHigh d n then w
  else winClose w (tsAdd (fieldNow d) (min 0 ((d.gtPulse.get ⟨n % 8, Nat.mod_lt _ (by decide)⟩ : Int) - d.tb.mono)))

/-- A change that can move the levels of some group trigger lines, with the windows it opens and closes (R165). -/
def gtMove (ns : List Nat) (f : Dev → Dev) (d : Dev) : Dev :=
  let ws := ns.map fun n => (n, gtWindows d n)
  let d := f d
  forEach ws d fun d x =>
    { d with gtWin := d.gtWin.set x.1 (if gtHigh d x.1 then winOpen x.2 (fieldNow d) else winClose x.2 (fieldNow d)) }

/-- A pulse of 400 ns on some group trigger lines (R221, R318). -/
def gtPulses (ns : List Nat) (d : Dev) : Dev :=
  gtMove ns (fun d => { d with gtPulse := ns.foldl (fun v n => v.set (n % 8) (d.tb.mono + 40960) (Nat.mod_lt _ (by decide))) d.gtPulse }) d

/-- TRIG_OUT at an instant in elapsed taps: high while any channel holds it or any pulse on it lasts (R221). -/
def trigOutHigh (d : Dev) (at_ : Nat) : Bool :=
  d.trigOut.any fun x => decide (x.from_ ≤ at_) && (match x.until_ with | some e => decide (at_ < e) | none => true)

/-- The crossing time of a SIG on TRIG_OUT, 2 µs in taps (R221). -/
def trigOutLag : Nat := 2 * tapsPerUs

/-- A pulse on TRIG_OUT of a length in taps from an instant in elapsed taps (R153, R221); stretches that are over are forgotten. -/
def trigOutPulse (d : Dev) (at_ len : Nat) : Dev :=
  { d with trigOut := (d.trigOut.filter fun x => x.until_.all fun e => decide (d.tb.mono < e)) ++ [⟨none, at_, some (at_ + len)⟩] }

/-- A channel releases TRIG_OUT 2 µs from now (R221). -/
def trigOutRelease (d : Dev) (c : Chan) : Dev :=
  { d with trigOut := d.trigOut.map fun x =>
      if x.chan = some c.val ∧ x.until_ = none then { x with until_ := some (d.tb.mono + trigOutLag) } else x }

/-- A channel holds TRIG_OUT high from 2 µs from now (R221). -/
def trigOutHold (d : Dev) (c : Chan) : Dev :=
  if d.trigOut.any fun x => decide (x.chan = some c.val) && x.until_.isNone then d
  else { d with trigOut := d.trigOut ++ [⟨some c.val, d.tb.mono + trigOutLag, none⟩] }

/-- The levels of all eight group trigger lines, as bits. -/
def gtBits (d : Dev) : Nat := ((List.range 8).map fun n => 2 ^ n * b2n (gtHigh d n)).foldl (· + ·) 0

/-! ### Snapshots (R176, R178)

What becomes true at a boundary belongs to the sample that begins there, and is first seen at the boundary after it. -/

/-- The pending conditions of a machine as they stand. -/
def pendNow (m : Mach) : Snapshot := { ev := m.ev, trg := m.trg, und := m.und, mld := m.mld, dfr := m.dfr }

/-- The pending conditions as they stood before the present instant. -/
def pendBefore (d : Dev) (m : Mach) : Snapshot :=
  match m.condBef with
  | some x => if x.1 = d.tb.mono then x.2 else pendNow m
  | none => pendNow m

/-- A change that can make a condition pending: what stood before this instant is kept. -/
def pendSet (d : Dev) (c : Chan) (f : Mach → Mach) : Dev :=
  modMach d c fun m => f { m with condBef := some (d.tb.mono, pendBefore d m) }

/-- The level of group trigger line n before the present instant. -/
def gtBefore (d : Dev) (n : Nat) : Bool := decide (winNo (gtWindows d n) (tsAdd (fieldNow d) (-1)) ≠ 0)

/-- The comparator outputs of a channel before the present instant, as CMP_STS[19:16] shows them. -/
def cmpBefore (d : Dev) (c : Chan) : Nat :=
  let now := fld d (bankOf c .cmp) (CMP_STS + 0x20 * c.inBank) 19 16
  match (ch d c).cmp.was with
  | some x => if x.1 = d.tb.mono then x.2 else now
  | none => now

/-- The snapshot of a channel's level and pending conditions (R178). -/
def takeSnapshot (d : Dev) (c : Chan) : Snapshot :=
  let m := (ch d c).mach
  let p := pendBefore d m
  let out := cmpBefore d c
  { ev := m.ev &&& p.ev, gt := ((List.range 8).map fun n => 2 ^ n * b2n (gtBefore d n)).foldl (· + ·) 0,
    cmpv := decide (out % 2 = 1) || decide (out / 2 % 2 = 1), cmpi := decide (out / 4 % 2 = 1),
    trg := m.trg && p.trg, und := m.und && p.und, mld := m.mld && p.mld, dfr := m.dfr && p.dfr }

end Sys2Proof.Machine
end

