-- ==== Sys2Proof/Machine/Spectrum.lean ====
section
/-! DEFINITION. The arithmetic of impedance and pulse results: the DFT of R255, the sinc3 correction, and the straight-line interpolation and its means (R253, R255, R256, R264, R265). -/

namespace Sys2Proof.Machine

open Sys2Proof

/-! ### The DFT (R255) -/

/-- A complex sum with 128 fractional bits in each part. -/
structure Cx where
  re : Int
  im : Int
deriving DecidableEq, Repr

/-- Σ x_j (cos θ_j − i sin θ_j) with θ_j = 2π k (o + j) ÷ n, for a list of samples at j = 0, 1, … (R255). `o` is the number of
samples between T0 and the first of the window. -/
def dftSum (k n o : Nat) : Nat → List Int → Cx → Cx
  | _, [], z => z
  | j, x :: r, z =>
    let sc := sinCos (k * (o + j)) n
    dftSum k n o (j + 1) r ⟨z.re + x * sc.2, z.im - x * sc.1⟩

/-- The bin k of a window that starts o samples after T0, times n ÷ 2. -/
def dftBin (k o : Nat) (xs : List Int) : Cx := dftSum k (max 1 xs.length) o 0 xs ⟨0, 0⟩

/-- The magnitude of a complex sum. -/
def Cx.mag (z : Cx) : Nat := isqrt (z.re * z.re + z.im * z.im).toNat

/-- The V samples of a window times n(n² − 1), less their least-squares straight line (R255, DETREND). -/
def detrend (xs : List Int) : List Int :=
  let n : Int := xs.length
  let s := xs.foldl (· + ·) 0
  let s2 := (xs.zipIdx.map fun x => (2 * (x.2 : Int) - (n - 1)) * x.1).foldl (· + ·) 0
  xs.zipIdx.map fun x => x.1 * (n * (n * n - 1)) - s * (n * n - 1) - 3 * s2 * (2 * (x.2 : Int) - (n - 1))

/-- sin(π h ÷ n)³ and (160 sin(π h ÷ 160n))³: their quotient is the sinc3 response at harmonic h (R255). -/
def sincParts (h n0 : Nat) : Int × Int :=
  let a := (sinCos h (2 * n0)).1
  let b := 160 * (sinCos h (320 * n0)).1
  (a * a * a, b * b * b)

/-- The amplitude |X| of a bin in units of 2^-40, corrected for the sinc3 response (R255): the nearest to the exact value. -/
def amplitude (z : Cx) (h n0 count scale : Nat) : Nat :=
  let p := sincParts h n0
  let den := p.1 * (count * scale * 2 ^ 128 : Nat)
  ((4 * (z.mag : Int) * p.2 * 2 ^ 40 + den) / (2 * den)).toNat

/-! ### Interpolation (R264, R265) -/

/-- A quantity at instants in taps, earliest first. -/
abbrev Curve := List (Int × Int)

/-- The straight-line interpolation at an instant; none outside the samples. -/
def interp : Curve → Int → Option Rat
  | (t1, x1) :: (t2, x2) :: r, t =>
    if t1 ≤ t ∧ t ≤ t2 ∧ t1 < t2 then some ((x1 : Rat) + ((x2 - x1) * (t - t1) : Int) / ((t2 - t1 : Int) : Rat))
    else interp ((t2, x2) :: r) t
  | [(t1, x1)], t => if t = t1 then some (x1 : Rat) else none
  | [], _ => none

/-- The area under the interpolation between two instants, summed over its segments. -/
def area (xs : Curve) : Curve → Int → Int → Rat
  | (t1, _) :: (t2, x2) :: r, a, b =>
    let lo := max t1 a
    let hi := min t2 b
    let here : Rat := if lo < hi then
        match interp xs lo, interp xs hi with
        | some u, some v => (u + v) / 2 * ((hi - lo : Int) : Rat)
        | _, _ => 0
      else 0
    here + area xs ((t2, x2) :: r) a b
  | _, _, _ => 0

/-- The value taken at an instant: the interpolation, or its exact mean over a window of `w` taps before it (R265). -/
def taken (xs : Curve) (t w : Int) : Option Rat :=
  if w = 0 then interp xs t
  else if (interp xs t).isSome && (interp xs (t - w)).isSome then some (area xs xs (t - w) t / (w : Rat)) else none

/-- A rational number rounded towards 0 and saturated to the signed 32-bit range. -/
def truncRat (x : Rat) : Int := satI 32 (Int.tdiv x.num x.den)

end Sys2Proof.Machine
end

