-- ==== Sys2Proof/Machine/Eis.lean ====
section
/-! DEFINITION. Impedance spectroscopy and pulse resistance: profiles, the checks at a step's start, the excitation, the samples, results and records (R251 to R269). -/

namespace Sys2Proof.Machine

open Sys2Proof

/-! ### Profiles (R251, R261) -/

/-- A register of EIS profile `p` of a bank. -/
def eisReg (d : Dev) (b : Bank) (p off : Nat) : Word := rd d (.bank b .eis) (off + 0x80 * p)

/-- A register of pulse profile `q` of a bank. -/
def plsReg (d : Dev) (b : Bank) (q off : Nat) : Word := rd d (.bank b .eis) (off + 0x20 * q)

/-- Harmonic, phase and amplitude of the tones of an EIS profile (R251). -/
def eisTones (d : Dev) (b : Bank) (p : Nat) : List (Nat × Nat × Nat) :=
  (List.range (bits (eisReg d b p EIS_CFG0) 30 28 + 1)).map fun n =>
    let a := eisReg d b p (EIS_TA + 8 * n)
    (bits a 19 0, bits a 31 20, (eisReg d b p (EIS_TB + 8 * n)).toNat)

/-- N0 of an EIS profile. -/
def eisN0 (d : Dev) (b : Bank) (p : Nat) : Nat := bits (eisReg d b p EIS_CFG0) 22 0
/-- M of an EIS profile. -/
def eisM (d : Dev) (b : Bank) (p : Nat) : Nat := bits (eisReg d b p EIS_CFG1) 15 0
/-- MS of an EIS profile. -/
def eisMS (d : Dev) (b : Bank) (p : Nat) : Nat := bits (eisReg d b p EIS_CFG1) 23 16
/-- IDC of an EIS profile. -/
def eisIdc (d : Dev) (b : Bank) (p : Nat) : Int := (eisReg d b p EIS_IDC).toInt

/-- Whether an EIS profile may be enabled (R251). -/
def eisProfileOk (d : Dev) (b : Bank) (p : Nat) : Bool :=
  let ts := eisTones d b p
  let n0 := eisN0 d b p
  let hs : List Nat := ts.map fun t => t.1
  decide (7 ≤ n0 ∧ n0 ≤ 6250000) && decide (1 ≤ eisM d b p) && hs.all (fun h => decide (1 ≤ h)) && decide hs.Nodup
    && hs.all (fun h => decide (n0 ≤ h * 6250000) && decide (h * 62500 ≤ 10000 * n0))
    && hs.all (fun h => hs.all fun g => decide (h ≠ 2 * g))
    && ts.all (fun t => decide (1 ≤ t.2.2))
    && (!bit (eisReg d b p EIS_CFG0) 24 || decide (1 ≤ eisMS d b p))

/-- The offsets in use of a pulse profile, in µs (R261). -/
def plsOffsets (d : Dev) (b : Bank) (q : Nat) : List Nat :=
  (List.range (bits (plsReg d b q PLS_CFG) 25 24 + 1)).map fun n => (plsReg d b q (PLS_OFS + 4 * n)).toNat

/-- The averaging window W of a pulse profile, in µs (R261). -/
def plsW (d : Dev) (b : Bank) (q : Nat) : Nat :=
  let aw := bits (plsReg d b q PLS_CFG) 22 20
  if aw = 0 then 0 else 2 ^ aw * 4

/-- Whether the nonzero offsets rise strictly and 0 stands only last (R261). -/
def offsetsRise : List Nat → Bool
  | [] => true
  | [_] => true
  | a :: b :: r => decide (a ≠ 0) && (decide (b = 0) || decide (a < b)) && offsetsRise (b :: r)

/-- Whether a pulse profile may be enabled (R261). -/
def plsProfileOk (d : Dev) (b : Bank) (q : Nat) : Bool :=
  let tb := bits (plsReg d b q PLS_TB) 19 0
  let os := plsOffsets d b q
  decide (4 ≤ tb) && decide (tb + 20 ≤ bits (plsReg d b q PLS_CFG) 19 0) && offsetsRise os
    && os.all fun o => decide (o = 0) || decide (plsW d b q ≤ o)

/-! ### The checks at the start boundary (R252, R262) -/

/-- The rated input range of a gain times 10^16 ÷ 1 V, so that range ÷ CH_SHUNT counts 100 nA (R103, R104). -/
def gainRange (g : Nat) : Nat :=
  match g with
  | 0 => 1250000000000000
  | 1 => 312500000000000
  | _ => 78125000000000

/-- Whether a current in 100 nA lies within the current range of the channel, or of its group's members together (R104). -/
def inRange (d : Dev) (c : Chan) (x : Nat) : Bool :=
  let r := (members d c).map fun m =>
    let s := (rd d (chBlk m) CH_SHUNT).toNat
    ((gainRange (fld d (chBlk m) CH_MCFG 1 0) : Nat) : Rat) / (s : Rat)
  decide ((x : Rat) ≤ r.foldl (· + ·) 0)

/-- Whether LDIR permits a current of a linear channel (R82): 1 charge only, 0 discharge only. -/
def ldirOk (d : Dev) (c : Chan) (x : Int) : Bool :=
  let k := chBlk (leadOf d c)
  !flag d k CH_CTRL 1 || (if flag d k CH_CTRL 4 then decide (0 ≤ x) else decide (x ≤ 0))

/-- Whether an EIS step may start (R252). -/
def eisMayStart (d : Dev) (c : Chan) (p : Nat) (s : Setup) : Bool :=
  let idc := eisIdc d c.bank p
  let ts := eisTones d c.bank p
  let amp := (ts.map fun t => t.2.2).foldl (· + ·) 0
  let peak := idc.natAbs + amp
  let hmax := (ts.map fun t => t.1).foldl max 0
  let rate := min 6 (fld d (chBlk (leadOf d c)) CH_LOOPCFG 2 0)
  decide ((peak : Int) ≤ s.ilim.getD 0) && inRange d c peak
    && decide (hmax * 62500 * 16 * 2 ^ rate ≤ 2500000 * eisN0 d c.bank p)
    && ldirOk d c (idc - amp) && ldirOk d c (idc + amp)

/-- Whether a PULSE step may start (R262). -/
def plsMayStart (d : Dev) (c : Chan) (q : Nat) (a : Int) (dur : Nat) (s : Setup) : Bool :=
  let ib := (plsReg d c.bank q PLS_BASE).toInt
  decide (a ≠ 0) && decide (100 ≤ dur) && (plsOffsets d c.bank q).all (fun o => decide (o + 8 ≤ dur))
    && decide (plsW d c.bank q + 8 ≤ dur)
    && [ib, ib + a].all fun x => decide ((x.natAbs : Int) ≤ s.ilim.getD 0) && inRange d c x.natAbs && ldirOk d c x

/-! ### The run -/

/-- The base period Tb in taps: 16 µs are 1,638,400 taps. -/
def eisTb (d : Dev) (c : Chan) (p : Nat) : Nat := eisN0 d c.bank p * 1638400

/-- T_end of R254. -/
def eisEndAt (d : Dev) (c : Chan) (p : Nat) : TS :=
  tsAdd (ch d c).eis.t0 ((eisMS d c.bank p + eisM d c.bank p) * eisTb d c p : Nat)

/-- The first sample of the window: T0 + MS x Tb (R254). -/
def eisFirst (d : Dev) (c : Chan) (p : Nat) : TS := tsAdd (ch d c).eis.t0 (eisMS d c.bank p * eisTb d c p : Nat)

/-- Whether an EIS or PULSE step passes its checks at its start boundary (R252, R262). -/
def eisMay (d : Dev) (c : Chan) (k : StepKind) : Bool :=
  match k with
  | .eis p => eisMayStart d c p.val (ch d c).mach.setup
  | .pulse _ a dur q => plsMayStart d c q.val a dur (ch d c).mach.setup
  | _ => true

/-- What an EIS or PULSE step sets up when it starts (R253, R263). -/
def eisStart (d : Dev) (c : Chan) : Dev :=
  match (ch d c).mach.step with
  | none => d
  | some s =>
    match s.kind with
    | .eis p =>
      let g := gridUp d (tsAdd (fieldNow d) (2457600 - 819200)) 10240
      let t0 := tsAdd (tsOfPeriods g) 819200
      let d := modCh d c fun k => { k with eis := { base := s.startTs, t0 := t0 } }
      let d := modCh d c fun k => { k with eis := { k.eis with span := some (eisFirst d c p.val, eisEndAt d c p.val) } }
      modMach d c fun m => { m with step := m.step.map fun x => { x with setpoint := eisIdc d c.bank p.val } }
    | .pulse _ _ _ q =>
      let d := modCh d c fun k => { k with eis := { base := s.startTs, t0 := s.startTs } }
      modMach d c fun m => { m with step := m.step.map fun x => { x with setpoint := (plsReg d c.bank q.val PLS_BASE).toInt } }
    | _ => d

/-- The setpoint of an EIS step at an instant (R253): whether a sum that is not a whole number of 100 nA takes the unit above
is open, and drawn by `n`. -/
def eisSetpoint (d : Dev) (c : Chan) (p : Nat) (t : TS) (n : Nat) : Int :=
  let idc := eisIdc d c.bank p
  let tb := eisTb d c p
  let dt := tsDiff t (ch d c).eis.t0
  if dt < 0 ∨ 0 ≤ tsDiff t (eisEndAt d c p) then idc else
  let sum := (eisTones d c.bank p).foldl (fun acc x =>
    acc + x.2.2 * (sinCos (x.1 * dt.toNat * 4096 + x.2.1 * tb) (tb * 4096)).1) 0
  let num := if bit (eisReg d c.bank p EIS_CFG0) 24 ∧ dt < tb then sum * dt else sum * tb
  let q := num / (fixOne * tb)
  idc + (if num % (fixOne * tb) = 0 then q else q + b2n (Config.meanUp n))

/-- A limit stage acts now: gathered in the window of an EIS step, and for a PULSE first seen from the pulse command on (R258, R268). -/
def eisLimit (d : Dev) (c : Chan) : Dev :=
  let d := eisNote d c 0x10000
  let r := (ch d c).eis
  if r.cAt.isSome then modCh d c fun k => { k with eis := { k.eis with limAt := r.limAt.or (some (tsDiff (fieldNow d) r.base)) } } else d

/-- The band of the channel's bank enters those of the span (R259). -/
def eisBand (d : Dev) (c : Chan) : Dev :=
  let n := nodeBand d c.bank.val
  if eisGathers d c ∧ n ∉ (ch d c).eis.bands then modCh d c fun k => { k with eis := { k.eis with bands := k.eis.bands ++ [n] } } else d

/-- A settled filtered sample of a channel that runs EIS or PULSE, with its instant (R254, R263), and the flags and the band of its span. -/
def eisSample (d : Dev) (c : Chan) (t : TS) (v i : Int) (ovr : Bool) : Dev :=
  match (ch d c).mach.step with
  | none => d
  | some s =>
    if !s.started then d else
    let r := (ch d c).eis
    let keep := match s.kind with
      | .eis p => decide (0 ≤ tsDiff t (eisFirst d c p.val)) && decide (tsDiff t (eisEndAt d c p.val) < 0)
      | .pulse _ _ _ _ => true
      | _ => false
    let d := eisBand (eisNote d c (contFlags d c)) c
    let d := if fld d (chBlk c) CH_STS 23 20 = 0 then d else eisLimit d c
    if keep then modCh d c fun k => { k with eis := { k.eis with smp := k.eis.smp ++ [⟨tsDiff t r.base, v, i, ovr⟩] } } else d

/-- What a control sample boundary does to an EIS or PULSE step: the pulse and end commands, and the natural end (R254, R263). -/
def eisBoundary (d : Dev) (c : Chan) (s : Step) : Bool × Dev :=
  let now := fieldNow d
  let r := (ch d c).eis
  let us := fun (n : Nat) => ((n * tapsPerUs : Nat) : Int)
  let put := fun (d : Dev) (x : Int) => modMach d c fun m => { m with step := m.step.map fun s => { s with setpoint := x } }
  match s.kind with
  | .eis p => (decide (us 28 ≤ tsDiff now (eisEndAt d c p.val)), d)
  | .pulse _ a dur q =>
    let ib := (plsReg d c.bank q.val PLS_BASE).toInt
    match r.cAt, r.eAt with
    | none, _ =>
      if us (bits (plsReg d c.bank q.val PLS_CFG) 19 0) ≤ tsDiff now r.base then
        (false, put (modCh d c fun k => { k with eis := { k.eis with cAt := some now } }) (ib + a))
      else (false, d)
    | some ct, none =>
      if us dur ≤ tsDiff now ct then (false, put (modCh d c fun k => { k with eis := { k.eis with eAt := some now } }) ib)
      else (false, d)
    | _, some et => (decide (us (max 20 (plsReg d c.bank q.val PLS_REL).toNat) ≤ tsDiff now et), d)
  | _ => (false, d)

/-- What the engine of a channel does (EIS_CSTSc.ENG). -/
def eisEng (d : Dev) (c : Chan) : Nat :=
  match (ch d c).mach.step with
  | some s =>
    if !s.started then 0 else
    match s.kind with
    | .eis p =>
      if tsDiff (fieldNow d) (eisFirst d c p.val) < 0 then 1
      else if tsDiff (fieldNow d) (eisEndAt d c p.val) < 0 then 2 else 0
    | .pulse _ _ _ _ =>
      match (ch d c).eis.cAt, (ch d c).eis.eAt with
      | none, _ => 3
      | some _, none => 4
      | _, some _ => 5
    | _ => 0
  | none => 0

/-! ### Results -/

/-- A result enters the channel's open Colophon, or is counted as not entered (R269). -/
def coloEnter (d : Dev) (c : Chan) (imp : Bool) (bytes : List Byte) (warm nocal : Bool) : Dev :=
  match (ch d c).colo with
  | none => d
  | some o =>
    let room := if imp then decide (o.zres.length < 32) else decide (o.pres.length < 8)
    let fl := o.flags ||| 2 * b2n nocal
    if room then
      modCh d c fun k => { k with colo := some { o with
        zres := if imp then o.zres ++ [bytes] else o.zres, pres := if imp then o.pres else o.pres ++ [bytes],
        flags := fl ||| b2n warm } }
    else
      let d := raEvent d (bankOf c .eis) (EIS_CSTS + 4 * c.inBank) 0x20
      modCh d c fun k => { k with colo := some { o with nx := satInc 0xFFFF o.nx, flags := fl } }

/-- A free value of 32 bits, signed: a result for which the spec states no value. -/
def freeInt (d : Dev) : Int × Dev := let x := fresh d; (sx 32 (Config.free x.1), x.2)

/-- A number in units of 2^-40 reported in whole units: exact when it is whole, else the unit below or above, which is open. -/
def upDown (d : Dev) (x : Nat) : Nat × Dev :=
  if x % 2 ^ 40 = 0 then (x / 2 ^ 40, d) else let f := fresh d; (x / 2 ^ 40 + b2n (Config.meanUp f.1), f.2)

/-- What an impedance result holds (R258). -/
structure ZRes where
  zre  : Int
  zim  : Int
  vamp : Nat
  iamp : Nat
  hr   : Nat
  uz   : Nat
  fl   : Nat
deriving DecidableEq, Repr

/-- Whether a bin is usable as a noise bin: neither a tone bin nor a second-harmonic bin (R255). -/
def noiseBin (m : Nat) (hs : List Nat) (k : Nat) : Bool := hs.all fun h => decide (k ≠ m * h) && decide (k ≠ 2 * m * h)

/-- The magnitude of a complex sum squared, in the units of its samples squared. -/
def Cx.sq (z : Cx) (scale : Nat) : Rat := ((z.re * z.re + z.im * z.im : Int) : Rat) / sqr ((fixOne : Rat) * (scale : Rat))

/-- UZ of a tone in µΩ, rounded up (R257), from its bins and noise bins over a window of n samples: `sc` is the scale of the V bins. A
bin of 0 leaves it without a value, which is free. -/
def uncTone (d : Dev) (c : Chan) (h n0 n : Nat) (warm : Bool) (xv xi : Cx) (nv ni : List Cx) (sc : Nat) : Nat × Dev :=
  let f := fresh d
  let v := xv.sq sc
  let i := xi.sq 1
  if v = 0 ∨ i = 0 then (Config.free f.1, f.2) else
  let p := sincParts h n0
  let k : Rat := sqr ((p.2 : Rat) / (p.1 : Rat))
  let r : Rat := (((rd d (chBlk c) CH_SHUNT).toNat : Nat) : Rat)
  let mean (l : List Rat) : Rat := l.foldl (· + ·) 0 / (l.length : Rat)
  let tab (col : Nat) (unit : Rat) : Rat := (noiseRate col 160).1 * 2 / (n : Rat) * sqr ((n : Rat) / 2 * unit)
  let sv := if nv = [] then tab 0 4 else mean (nv.map fun z => z.sq sc)
  let si := if ni = [] then tab (noiseCol d c) (10000000000 / r) else mean (ni.map fun z => z.sq 1)
  let up : Rat := sqr (2 * fixRat fixPi * ((h * 62500 : Nat) : Rat) / (n0 : Rat) / 50000000000)
  let z : Rat := v / i * sqr 2500000
  let q := z * (gainSq d c (ch d c).eis.bands / 1000000000000 + sv / (v * k) + si / (i * k) + up)
  (rootUp f.1 0 (if warm then 8 else 2) (q * (1 - 1 / 2 ^ 80), q * (1 + 1 / 2 ^ 80)), f.2)

/-- The impedance result of one tone (R255 to R257). -/
def toneResult (d : Dev) (c : Chan) (p : Nat) (h : Nat) : ZRes × Dev :=
  let r := (ch d c).eis
  let b := c.bank
  let m := eisM d b p
  let hs := (eisTones d b p).map fun t => t.1
  let det := bit (eisReg d b p EIS_CFG0) 25
  let vs := r.smp.map fun s => s.v
  let n := vs.length
  let sc := if det then max 1 (n * (n * n - 1)) else 1
  let xv := dftBin (m * h) (eisMS d b p * eisN0 d b p) (if det then detrend vs else vs)
  let xv2 := dftBin (2 * m * h) (eisMS d b p * eisN0 d b p) (if det then detrend vs else vs)
  let xi := dftBin (m * h) (eisMS d b p * eisN0 d b p) (r.smp.map fun s => s.i)
  let den := xi.re * xi.re + xi.im * xi.im
  let ovr := r.smp.any fun s => s.ovr
  let z : (Int × Int) × Dev :=
    if den = 0 then let f := freeInt d; let g := freeInt f.2; ((f.1, g.1), g.2)
    else ((satI 32 (Int.tdiv ((xv.re * xi.re + xv.im * xi.im) * 2500000) (den * sc)),
           satI 32 (Int.tdiv ((xv.im * xi.re - xv.re * xi.im) * 2500000) (den * sc))), d)
  let d := z.2
  let va := upDown d (amplitude xv h (eisN0 d b p) n sc)
  let ia := upDown va.2 (amplitude xi h (eisN0 d b p) n 1)
  let d := ia.2
  let mv := xv.re * xv.re + xv.im * xv.im
  let hr : Nat × Dev :=
    if mv = 0 then let f := fresh d; (Config.free f.1 % 65536, f.2)
    else (min 65535 (isqrt ((xv2.re * xv2.re + xv2.im * xv2.im) * 2 ^ 32 / mv).toNat), d)
  let d := hr.2
  let linlim := bits (eisReg d b p EIS_CFG1) 31 24
  let nonlin := decide (linlim ≠ 0 ∧ linlim * 256 < hr.1)
  let tab := !(noiseBin m hs (m * h - 1) || noiseBin m hs (m * h + 1))
  let warm := decide (r.fl % 2 = 1)
  let dft (k : Nat) (xs : List Int) : Cx := dftBin k (eisMS d b p * eisN0 d b p) xs
  let ks := [m * h - 1, m * h + 1].filter fun k => noiseBin m hs k
  let u := uncTone d c h (eisN0 d b p) (if n = 0 then 1 else n) warm xv xi (ks.map fun k => dft k (if det then detrend vs else vs))
    (ks.map fun k => dft k (r.smp.map fun s => s.i)) sc
  let fl := b2n (decide (r.fl % 2 = 1)) + 2 * b2n nonlin + 4 * (r.fl / 0x10000 % 2) + 0x10 * b2n ovr + 0x20 * (r.fl / 0x40 % 2)
    + 0x40 * (r.fl / 0x4000 % 2) + 0x80 * b2n tab + 0x100 * (r.fl / 0x800 % 2) + 0x200 * (r.fl / 0x2000 % 2)
  ({ zre := z.1.1, zim := z.1.2, vamp := va.1, iamp := ia.1, hr := hr.1,
     uz := if ovr then 0xFFFF else encodeUnc u.1, fl := fl }, u.2)

/-- The impedance result of a step that ended before T_end (R259). -/
def toneAborted (r : EisRun) : ZRes :=
  { zre := 0, zim := 0, vamp := 0, iamp := 0, hr := 0, uz := 0xFFFF,
    fl := b2n (decide (r.fl % 2 = 1)) + 4 * (r.fl / 0x10000 % 2) + 8 + 0x10 * b2n (r.smp.any fun s => s.ovr)
      + 0x20 * (r.fl / 0x40 % 2) + 0x40 * (r.fl / 0x4000 % 2) + 0x100 * (r.fl / 0x800 % 2) + 0x200 * (r.fl / 0x2000 % 2) }

/-- One impedance record and its Colophon entry (R258, R269, R394). -/
def impedanceRecord (d : Dev) (c : Chan) (p : Nat) (tone h : Nat) (z : ZRes) : Dev :=
  let r := (ch d c).eis
  let n := r.smp.length
  let vdc := meanUnits d ((r.smp.map fun s => s.v).foldl (· + ·) 0) n
  let idc := meanUnits vdc.2 ((r.smp.map fun s => s.i).foldl (· + ·) 0) n
  let d := nextSeq idc.2 c
  let nt := (eisTones d c.bank p).length
  let step := (ch d c).mach.counter % 65536
  let n0 := eisN0 d c.bank p
  let bytes := leBytes 1 6 ++ leBytes 1 1 ++ leBytes 1 c.bank.val ++ leBytes 1 c.inBank
    ++ leBytes 4 (rd d (chBlk c) CH_RECSEQ).toNat ++ leBytes 8 r.t0.toNat ++ leBytes 4 h ++ leBytes 4 n0
    ++ leBytes 4 (ux 32 z.zre) ++ leBytes 4 (ux 32 z.zim) ++ leBytes 4 z.vamp ++ leBytes 4 z.iamp
    ++ leBytes 4 (ux 32 vdc.1) ++ leBytes 4 (ux 32 idc.1) ++ leBytes 2 (fld d (chBlk c) CH_T 15 0) ++ leBytes 2 z.fl
    ++ leBytes 2 z.uz ++ leBytes 2 z.hr ++ leBytes 1 tone ++ leBytes 1 (p * 16 + nt) ++ leBytes 2 (eisM d c.bank p)
    ++ leBytes 2 (ch d c).meas.lost ++ leBytes 2 step
  let d := spoolRecord d c bytes
  let d := if z.fl / 2 % 2 = 1 then raEvent d (bankOf c .eis) (EIS_CSTS + 4 * c.inBank) 0x8 else d
  coloEnter d c true (leBytes 4 n0 ++ leBytes 4 h ++ leBytes 4 (ux 32 z.zre) ++ leBytes 4 (ux 32 z.zim) ++ leBytes 2 z.uz
    ++ leBytes 2 z.hr ++ leBytes 2 z.fl ++ leBytes 2 step) (decide (z.fl % 2 = 1)) (decide (z.fl / 0x200 % 2 = 1))

/-- The impedance records of an EIS step that ends (R258, R259): one for each tone, in tone order; computed when the results are ready, or
the step ends from T_end on with every sample of the window. -/
def eisRecords (d : Dev) (c : Chan) (p : Nat) : Dev :=
  let whole := (ch d c).eis.ready || (decide (0 ≤ tsDiff (fieldNow d) (eisEndAt d c p))
    && decide ((ch d c).eis.smp.length = eisM d c.bank p * eisN0 d c.bank p))
  let d := (eisTones d c.bank p).zipIdx.foldl (fun d x =>
    let z := if whole then toneResult d c p x.1.1 else (toneAborted (ch d c).eis, d)
    impedanceRecord z.2 c p x.2 x.1.1 z.1) d
  raEvent d (bankOf c .eis) (EIS_CSTS + 4 * c.inBank) (if whole then 0x1 else 0x5)

/-- The results of an EIS step are ready: every sample of the window has been taken (R254). -/
def doEisReady (c : Chan) (d : Dev) : Dev :=
  match (ch d c).mach.step with
  | some s =>
    match s.kind with
    | .eis p =>
      if s.started ∧ 0 ≤ tsDiff (fieldNow d) (eisEndAt d c p.val)
          ∧ tsDiff (fieldNow d) (eisEndAt d c p.val) ≤ 2867200
          ∧ (ch d c).eis.smp.length = eisM d c.bank p.val * eisN0 d c.bank p.val then
        modCh d c fun k => { k with eis := { k.eis with ready := true } }
      else d
    | _ => d
  | none => d

/-! ### Pulse results (R263 to R268) -/

/-- The first crossing of a threshold in the direction of A after the pulse command, no later than 100 µs after it: t_s (R264). -/
def crossing (up : Bool) (thr : Rat) (from_ to_ : Int) : Curve → Option Int
  | (_, x1) :: (t2, x2) :: r =>
    let hit := if up then decide ((x1 : Rat) < thr) && decide (thr ≤ x2) else decide (thr < (x1 : Rat)) && decide ((x2 : Rat) ≤ thr)
    if hit && decide (from_ < t2) && decide (t2 ≤ to_) then
      let f := clampI 0 255 (256 * ((x2 : Rat) - thr) / ((x2 - x1 : Int) : Rat)).floor
      some (t2 - f * 1600)
    else crossing up thr from_ to_ ((t2, x2) :: r)
  | _ => none

/-- The mean of a list of samples; none when there are none. -/
def meanRat (l : List Int) : Option Rat :=
  if l = [] then none else some (((l.foldl (· + ·) 0 : Int) : Rat) / (l.length : Rat))

/-- What a pulse result holds at one offset: the resistance, its encoded uncertainty and dI, dV there. -/
structure PRes where
  res   : Int
  unc   : Nat
  whole : Nat
  di    : Option Rat
  dv    : Option Rat
deriving DecidableEq, Repr

/-- An offset without a result (R267, R268). -/
def noPRes : PRes := { res := 0, unc := 0xFFFF, whole := 0x7FFFFFFF, di := none, dv := none }

/-- U of a pulse result in µΩ, rounded up (R266): `di` is the current step, `w` the averaging window and `tb` the baseline window in taps.
Without a current step it has no value, which is free. -/
def uncPulse (d : Dev) (c : Chan) (res : Int) (di : Rat) (w : Int) (tb : Nat) (warm : Bool) : Nat × Dev :=
  let f := fresh d
  if di = 0 then (Config.free f.1, f.2) else
  let r : Rat := (((rd d (chBlk c) CH_SHUNT).toNat : Nat) : Rat)
  let sh : Rat := 409600 / ((max 409600 w : Int) : Rat) + 409600 / ((max 1 tb : Nat) : Rat)
  let sv : Rat := (noiseRate 0 40).1 * sh
  let si : Rat := (noiseRate (noiseCol d c) 40).1 * sh * sqr (10000000000 / r)
  let q := sqr (res : Rat) * (gainSq d c (ch d c).eis.bands / 1000000000000) + sv * sqr 10000000 / sqr di + sqr (res : Rat) * si / sqr di
  (rootUp f.1 0 (if warm then 8 else 2) (exactly q), f.2)

/-- The result at one offset instant (R265, R266): none before its samples are there. -/
def offsetResult (d : Dev) (c : Chan) (tb : Nat) (warm : Bool) (smp : List EisSample) (vb ib : Rat) (x w : Int) : Option (PRes × Bool) × Dev :=
  let vc := smp.map fun s => (s.off, s.v)
  let ic := smp.map fun s => (s.off, s.i)
  match taken vc x w, taken ic x w with
  | some v, some i =>
    let di := i - ib
    let dv := v - vb
    let ovr := smp.any fun s => s.ovr && decide (x - w - 409600 < s.off) && decide (s.off < x + 409600)
    let r := if di = 0 then freeInt d else (truncRat (dv / di * 2500000), d)
    let u := uncPulse r.2 c r.1 di w tb warm
    let un := u.1
    (some ({ res := r.1, unc := if ovr then 0xFFFF else encodeUnc un, whole := if ovr then 0x7FFFFFFF else min 0x7FFFFFFF un,
             di := some di, dv := some dv }, ovr), u.2)
  | _, _ => (none, d)

/-- A rational value reported in whole units, the rounding open; absent, a free value. -/
def ratUnits (d : Dev) (x : Option Rat) : Int × Dev :=
  match x with
  | none => freeInt d
  | some r => if (r.floor : Rat) = r then (satI 32 r.floor, d)
              else let f := fresh d; (satI 32 (r.floor + b2n (Config.meanUp f.1)), f.2)

/-- The results of a PULSE step that ends (R265 to R268): the pulse record, its Colophon entry and the pair d. -/
def pulseResults (d : Dev) (c : Chan) (dst : Nat) (a : Int) (q : Nat) : Dev :=
  let r := (ch d c).eis
  let b := c.bank
  let us := fun (n : Nat) => ((n * tapsPerUs : Nat) : Int)
  let w := us (plsW d b q)
  let tb := (us (bits (plsReg d b q PLS_TB) 19 0)).toNat
  let offs := plsOffsets d b q
  let ct := r.cAt.map fun t => tsDiff t r.base
  let et := r.eAt.map fun t => tsDiff t r.base
  let basel : List EisSample := match ct with
    | some x => r.smp.filter fun s =>
        decide (x - us 8 - us (bits (plsReg d b q PLS_TB) 19 0) ≤ s.off) && decide (s.off ≤ x - us 8)
    | none => []
  let vb := meanRat (basel.map fun s => s.v)
  let ibm := meanRat (basel.map fun s => s.i)
  let ic := r.smp.map fun s => (s.off, s.i)
  let hit := match ct, ibm with
    | some x, some i => crossing (decide (0 < a)) (i + (a : Rat) / 2) x (x + us 100) ic
    | _, _ => none
  let late := match ct with | some x => decide (x + us 100 ≤ tsDiff (fieldNow d) r.base) | none => false
  let nostep := hit.isNone && late
  let ts := hit.or ct
  let step := (ch d c).mach.counter % 65536
  let one := fun (d : Dev) (o : Nat) =>
    let x := if o = 0 then et.map (fun e => e - us 8) else ts.map (fun t => t + us o)
    match x, vb, ibm with
    | some x, some v, some i => if hit.isNone && !nostep then (none, d) else
      let y := offsetResult d c tb (decide (r.fl % 2 = 1)) r.smp v i x w
      (if nostep then y.1.map fun (o : PRes × Bool) => ({ noPRes with di := o.1.di, dv := o.1.dv }, o.2) else y.1, y.2)
    | _, _, _ => (none, d)
  let rs := offs.foldl (fun (acc : List (Option (PRes × Bool)) × Dev) o =>
    let x := one acc.2 o; (acc.1 ++ [x.1], x.2)) ([], d)
  let d := rs.2
  let abort := rs.1.any fun x => x.isNone
  let ovr := rs.1.any fun x => match x with | some y => y.2 | none => false
  let ps := rs.1.map fun x => match x with | some y => y.1 | none => noPRes
  let lastP := ps.getLastD noPRes
  let vbU := ratUnits d vb
  let ibU := ratUnits vbU.2 ibm
  let diU := ratUnits ibU.2 lastP.di
  let dvU := ratUnits diU.2 lastP.dv
  let fr := freeInt dvU.2
  let d := nextSeq fr.2 c
  let tss : Nat := match ts with | some t => (tsAdd r.base t).toNat | none => ux 64 fr.1
  let last := if offs.getLastD 0 = 0 then et.map (fun e => e - us 8) else ts.map (fun t => t + us (offs.getLastD 0))
  let lim := match r.limAt with
    | some x => (match last with | some y => decide (x ≤ y) | none => true)
    | none => false
  let fl := r.fl % 2 + 2 * b2n nostep + 4 * b2n lim + 8 * b2n abort + 0x10 * b2n ovr + 0x20 * (r.fl / 0x40 % 2)
    + 0x40 * (r.fl / 0x4000 % 2) + 0x80 * (r.fl / 0x800 % 2) + 0x100 * (r.fl / 0x2000 % 2)
  let four := fun (l : List PRes) => (l ++ [noPRes, noPRes, noPRes, noPRes]).take 4
  let resB := ((four ps).map fun x => leBytes 4 (ux 32 x.res)).flatten
  let uncB := ((four ps).map fun x => leBytes 2 x.unc).flatten
  let bytes := leBytes 1 7 ++ leBytes 1 1 ++ leBytes 1 b.val ++ leBytes 1 c.inBank ++ leBytes 4 (rd d (chBlk c) CH_RECSEQ).toNat
    ++ leBytes 8 tss ++ leBytes 4 (ux 32 vbU.1) ++ leBytes 4 (ux 32 ibU.1) ++ leBytes 4 (ux 32 diU.1) ++ resB ++ uncB
    ++ leBytes 2 fl ++ leBytes 1 q ++ leBytes 1 offs.length ++ leBytes 4 (ux 32 dvU.1) ++ leBytes 2 (ch d c).meas.lost
    ++ leBytes 2 step
  let d := spoolRecord d c bytes
  let d := raEvent d (bankOf c .eis) (EIS_CSTS + 4 * c.inBank) (0x2 + 4 * b2n abort + 0x10 * b2n nostep)
  let d := coloEnter d c false (resB ++ uncB ++ leBytes 4 (ux 32 diU.1) ++ leBytes 2 fl ++ leBytes 2 step)
    (decide (fl % 2 = 1)) (decide (fl / 0x100 % 2 = 1))
  let bad := nostep || abort || ovr
  let wd : Int := if bad then 0 else lastP.res
  let wu : Nat := if bad then 0x7FFFFFFF else lastP.whole
  modMach d c fun m => { setW (setW m dst (satWord wd)) (dst + 1) (BitVec.ofNat 32 wu) with z := decide (wd = 0), n := decide (wd < 0) }

/-- What an EIS or PULSE step leaves when it ends (R254, R258, R259, R263, R267). A step that never started leaves nothing. -/
def eisEnd (d : Dev) (c : Chan) (s : Step) (code : Nat) : Dev :=
  if !s.started then d else
  match s.kind with
  | .eis p =>
    let d := eisRecords d c p.val
    if code = 1 then bump d (bankOf c .eis) EIS_CNT else d
  | .pulse dst a _ q =>
    let d := pulseResults d c dst a q.val
    if code = 1 then bump d (bankOf c .eis) PLS_CNT else d
  | _ => d

/-- The setpoint that the power ledger takes for an EIS step (R260). -/
def eisLedgerSet (d : Dev) (b : Bank) (p : Nat) : Int :=
  let idc := eisIdc d b p
  let amp : Int := (((eisTones d b p).map fun t => t.2.2).foldl (· + ·) 0 : Nat)
  if 0 ≤ idc then idc + amp else idc - amp

/-- The setpoint that the power ledger takes for a PULSE step (R268): whichever of IB and IB + A has the larger magnitude; at
equal magnitudes the two have opposite signs and the choice is open, drawn by `n`. -/
def plsLedgerSet (d : Dev) (b : Bank) (q : Nat) (a : Int) (n : Nat) : Int :=
  let ib := (plsReg d b q PLS_BASE).toInt
  if ib.natAbs < (ib + a).natAbs then ib + a
  else if (ib + a).natAbs < ib.natAbs then ib
  else if Config.meanUp n then ib else ib + a

end Sys2Proof.Machine
end

