-- ==== Sys2Proof/Machine/Ledger.lean ====
section
/-! DEFINITION. The power ledger: declared and bus power, admission, the deferral queue, the line-cycle boundary and ledger records (R224, R270 to R280, R444). -/

namespace Sys2Proof.Machine

open Sys2Proof

/-- The device with the ledger changed. -/
def modLed (d : Dev) (f : LedgerSt → LedgerSt) : Dev := { d with led := f d.led }

/-! ### Declared power (R271, R272) -/

/-- A quotient rounded away from 0. -/
def divAway (a : Int) (n : Nat) : Int :=
  let q : Int := ((a.natAbs + n - 1) / n : Nat)
  if a < 0 then -q else q

/-- The rule value of a mode and setpoint (R271): 0 CC, 1 CV, 2 CP, 3 CR. -/
def ledRule (md : Nat) (sp vmax ilim v : Int) : Int :=
  match md with
  | 0 => divAway (sp * vmax) 400000000
  | 1 => let x := divAway (sp * ilim) 400000000; if v ≤ sp then x else -x
  | 2 => sp
  | _ => divAway (-(vmax * vmax)) (160 * sp).toNat

/-- Whichever of two rule values has the larger magnitude; at equal magnitudes and other signs the choice is open, drawn by `n`. -/
def largerOf (a b : Int) (n : Nat) : Int :=
  if a.natAbs < b.natAbs then b else if b.natAbs < a.natAbs then a else if Config.meanUp n then a else b

/-- The declared power p of a requested step (R271); `first` is the setpoint of the first sample of a PLAY or STREAM. -/
def ledDeclared (d : Dev) (c : Chan) (k : StepKind) (first : Int) (n : Nat) : Int :=
  let m := (ch d c).mach
  let s := m.setup
  let vmax := s.vmax.getD 0
  let ilim := s.ilim.getD 0
  let plim := s.plim.getD 0
  let v := (rd d (chBlk c) CH_PV).toInt
  let rule :=
    let r := match k with
      | .force md sp => ledRule md sp vmax ilim v
      | .ramp md t _ => largerOf (ledRule md (rampStart d c md) vmax ilim v) (ledRule md t vmax ilim v) n
      | .hold => let x := m.prevMode.getD (4, 0); ledRule x.1 x.2 vmax ilim v
      | .rest => 0
      | .wave => if first < 0 then -plim else plim
      | .eis p => ledRule 0 (eisLedgerSet d c.bank p.val) vmax ilim v
      | .pulse _ a _ q => ledRule 0 (plsLedgerSet d c.bank q.val a n) vmax ilim v
    clampI (-plim) plim r
  match s.decl with
  | some x => if x = -0x80000000 then rule else x
  | none => rule

/-- The bus power of a declared power (R272). -/
def ledBus (etaC etaD : Nat) (p : Int) : Int :=
  if 0 < p then divAway (p * 1024) (max 1 etaC) else if p < 0 then divAway (p * etaD) 1024 else 0

/-! ### The committed sum and its tests (R273, R274, R444) -/

/-- What an association list of bus powers holds for a channel. -/
def powFind (l : List (Chan × Int)) (c : Chan) : Option Int := (l.find? fun x => decide (x.1 = c)).map fun x => x.2

/-- Whether a step's own bus power counts in place of its reservation (R273). -/
def exceedsRes (b r : Int) : Bool := decide (r.natAbs < b.natAbs) || decide (b * r < 0)

/-- What a channel counts in C (R273). -/
def ledChan (l : LedgerSt) (c : Chan) : Int :=
  match powFind l.admitted c, powFind l.standing c with
  | some b, some r => if exceedsRes b r then b else r
  | some b, none => b
  | none, some r => r
  | none, none => 0

/-- The committed sum C (R273). -/
def ledC (d : Dev) : Int := (allChans.map fun c => ledChan d.led c).foldl (· + ·) 0

/-- How far a sum lies outside the limits in effect (R274). -/
def ledExcess (l : LedgerSt) (x : Int) : Nat :=
  let hi : Int := l.limI * 1000
  let lo : Int := -(l.limX * 1000 : Nat)
  if hi < x then (x - hi).toNat else if x < lo then (lo - x).toNat else 0

/-- The second test of R274: C + b lies within the limits, or reduces an excess of C. -/
def ledFits (l : LedgerSt) (cc b : Int) : Bool :=
  decide (ledExcess l (cc + b) = 0) || (decide (ledExcess l cc ≠ 0) && decide (ledExcess l (cc + b) < ledExcess l cc))

/-- The reservations of accepted STARTs still to come: their instants in taps and bus powers (R273, R274). -/
def ledPending (d : Dev) : List (Int × Int) :=
  (allBanks.map fun b => ((bk d b).seq.pending.filter fun s => decide (s.kind = 1) && decide (s.pwr ≠ 0)).map fun s =>
    (ltInstant d s.lt, s.pwr)).flatten

/-- C at an instant to come: with every reservation whose boundary lies at or before it (R274, R444). -/
def ledCAt (d : Dev) (t : Int) : Int :=
  ledC d + (((ledPending d).filter fun x => decide (x.1 ≤ t)).map fun x => x.2).foldl (· + ·) 0

/-- The sign of a bus power. -/
def sgn (x : Int) : Int := if x < 0 then -1 else if 0 < x then 1 else 0

/-- Whether admissions of a sign are frozen (R280). -/
def ledFrozen (d : Dev) (b : Int) : Bool :=
  (flag d bLED LED_STS 16 || (d.led.overDue && flag d bLED LED_CTL 2)) && decide (sgn b = d.led.frzSign)

/-- The second and third tests of R274, and the freeze of R280. -/
def ledTest (d : Dev) (b : Int) : Bool :=
  ledFits d.led (ledC d) b && (ledPending d).all (fun x => ledFits d.led (ledCAt d x.1) b)

/-- What stands before the first happening of an instant at the ledger is kept (R279). -/
def ledMark (d : Dev) : Dev :=
  if (d.led.before.map fun x => x.1) = some d.tb.mono then d else
  modLed d fun l => { l with before := some (d.tb.mono, ledC d, l.queue.length, fld d bLED LED_PSTATE 15 0) }

/-- C, the requests in the queue and the power states as they stood just before the present instant (R279). -/
def ledBefore (d : Dev) : Int × Nat × Nat :=
  match d.led.before with
  | some x => if x.1 = d.tb.mono then x.2 else (ledC d, d.led.queue.length, fld d bLED LED_PSTATE 15 0)
  | none => (ledC d, d.led.queue.length, fld d bLED LED_PSTATE 15 0)

/-- The largest C of the record interval takes the present C (R279). -/
def ledNote (d : Dev) : Dev := let x := ledC d; modLed d fun l => { l with iv := { l.iv with cmax := max l.iv.cmax x } }

/-- A step's bus power enters C. -/
def ledAdd (d : Dev) (c : Chan) (b : Int) : Dev :=
  ledNote (modLed (ledMark d) fun l =>
    { l with admitted := (l.admitted.filter fun x => decide (x.1 ≠ c)) ++ [(c, b)], iv := { l.iv with nadm := satInc 0xFFFF l.iv.nadm } })

/-- What the channel's ledger registers show of its step (CH_LDECL, CH_LDEF, CH_LDEFT). -/
def ledShow (d : Dev) (c : Chan) (p : Int) (r : Option LedReq) : Dev :=
  let d := wr d (chBlk c) CH_LDECL (satWord p)
  match r with
  | none => wr (wr d (chBlk c) CH_LDEF 0) (chBlk c) CH_LDEFT 0
  | some r =>
    let d := wr d (chBlk c) CH_LDEF (BitVec.ofNat 32 (min 0xFFFF r.cyc * 65536 + 2 * b2n r.paired + 1))
    wr d (chBlk c) CH_LDEFT (BitVec.ofNat 32 (min 0xFFFFFFFF ((d.tb.mono - r.at_) / tapsPerUs)))

/-! ### Requests (R270, R274 to R276) -/

/-- A request joins the queue in order of request instant, bank and channel (R275). -/
def ledInsert (r : LedReq) : List LedReq → List LedReq
  | [] => [r]
  | x :: l => if r.at_ < x.at_ ∨ (r.at_ = x.at_ ∧ r.chan.val < x.chan.val) then r :: x :: l else x :: ledInsert r l

/-- The request of a channel in a list. -/
def reqOf (l : List LedReq) (c : Chan) : Option LedReq := l.find? fun r => decide (r.chan = c)

/-- A list of requests without those of a channel. -/
def reqDrop (l : List LedReq) (c : Chan) : List LedReq := l.filter fun r => decide (r.chan ≠ c)

/-- A step that is about to start asks the ledger (R270, R274): true when it is admitted and starts now. `first` is the setpoint of
the first sample of a PLAY or STREAM. -/
def ledgerAdmit (d : Dev) (c : Chan) (first : Int) : Bool × Dev :=
  match (ch d c).mach.step with
  | none => (false, d)
  | some s =>
    let l := d.led
    match reqOf l.granted c with
    | some r => (true, ledShow (modLed d fun l => { l with granted := reqDrop l.granted c }) c r.p (some r))
    | none =>
      if (reqOf l.queue c).isSome || (reqOf l.expired c).isSome then (false, d)
      else if !stepDrives (ch d c).mach s.kind then (true, ledShow d c 0 none)
      else
        let f := fresh d
        let d := f.2
        let p := ledDeclared d c s.kind first f.1
        let b := ledBus l.etaC l.etaD p
        match powFind l.standing c with
        | some r =>
          let d := if exceedsRes b r then
              raEvent (modLed d fun l => { l with iv := { l.iv with fl := l.iv.fl ||| 4 } }) bLED LED_STS 0x8 else d
          (true, ledShow (ledAdd d c b) c p none)
        | none =>
          if !l.en || (!(l.queue.any fun r => decide (sgn r.b = sgn b)) && ledTest d b && !ledFrozen d b) then
            (true, ledShow (ledAdd d c b) c p none)
          else
            let r : LedReq :=
              { chan := c, p := p, b := b, at_ := d.tb.mono, cyc := 0, lim := (ch d c).mach.setup.defLim, paired := false }
            let d := modLed (ledMark d) fun l => { l with queue := ledInsert r l.queue }
            let d := bump (raEvent d bLED LED_STS 0x2) bLED LED_DEF_CNT
            (false, modMach d c fun m => { m with step := m.step.map fun s => { s with deferred := true } })

/-- A step or its waiting request leaves the ledger (R273, R276); the reservation of the channel ends with its first step that
drives. -/
def ledgerRemove (d : Dev) (c : Chan) : Dev :=
  let d := ledMark d
  let l := d.led
  let d := match (reqOf l.queue c).or (reqOf l.expired c) with
    | some r => ledShow d c r.p (some r)
    | none => d
  let drove := (powFind l.admitted c).isSome
  modLed d fun l => { l with queue := reqDrop l.queue c, granted := reqDrop l.granted c, expired := reqDrop l.expired c,
                             admitted := l.admitted.filter fun x => decide (x.1 ≠ c),
                             standing := if drove then l.standing.filter fun x => decide (x.1 ≠ c) else l.standing }

/-- The machine of a channel stops in HALT, SAFEHALT or FAULT: its standing reservation ends (R273). -/
def ledgerStop (d : Dev) (c : Chan) : Dev := modLed (ledMark d) fun l => { l with standing := l.standing.filter fun x => decide (x.1 ≠ c) }

/-- The execution boundary of an accepted START passes: its reservation stands (R273). -/
def ledgerReserve (d : Dev) (c : Chan) (b : Int) : Dev :=
  if b = 0 then d
  else ledNote (modLed (ledMark d) fun l => { l with standing := (l.standing.filter fun x => decide (x.1 ≠ c)) ++ [(c, b)] })

/-- Whether a channel's request waits in the queue (CH_LDEF.WAITING). -/
def ledWaiting (d : Dev) (c : Chan) : Bool := (reqOf d.led.queue c).isSome

/-- The LEDGER test of a submitted START (R444): `b` is its bus power over all masked channels and `t` its execution instant. -/
def ledReserveFits (d : Dev) (b : Int) (t : Int) : Bool :=
  !d.led.en ||
    (ledFits d.led (ledCAt d t) b && ((ledPending d).filter fun x => decide (t < x.1)).all fun x => ledFits d.led (ledCAt d x.1) b)

/-! ### The line-cycle boundary (R275 to R280) -/

/-- A request of the queue is admitted. -/
def ledGrant (d : Dev) (r : LedReq) (paired : Bool) : Dev :=
  modLed (ledAdd d r.chan r.b) fun l => { l with granted := l.granted ++ [{ r with paired := paired }] }

/-- The queue is processed in order (R275): `todo` is still to try, `kept` stays, and `blocked` holds the signs that have failed. -/
def ledQueue : Nat → List LedReq → List LedReq → List Int → Dev → List LedReq × Dev
  | 0, todo, kept, _, d => (kept ++ todo, d)
  | _ + 1, [], kept, _, d => (kept, d)
  | n + 1, r :: todo, kept, blocked, d =>
    if blocked.contains (sgn r.b) then ledQueue n todo (kept ++ [r]) blocked d
    else if ledTest d r.b && !ledFrozen d r.b then ledQueue n todo kept blocked (ledGrant d r false)
    else
      let partner := if flag d bLED LED_CTL 1 && !blocked.contains (-sgn r.b) then
          todo.find? fun q => decide (sgn q.b = -sgn r.b) && decide (sgn r.b ≠ 0) else none
      match partner with
      | some q =>
        if ledTest d (r.b + q.b) && !ledFrozen d r.b && !ledFrozen d q.b then
          ledQueue n (todo.erase q) kept blocked (ledGrant (ledGrant d r true) q true)
        else ledQueue n todo (kept ++ [r]) (sgn r.b :: blocked) d
      | none => ledQueue n todo (kept ++ [r]) (sgn r.b :: blocked) d

/-- The queue at a line-cycle boundary: one more cycle of deferral for each request, the admissions, and the requests that are past
their limit (R275, R276). -/
def ledQueueLine (d : Dev) : Dev :=
  let q := d.led.queue.map fun r => { r with cyc := r.cyc + 1 }
  let x := if d.led.en then ledQueue (q.length + 1) q [] [] (modLed d fun l => { l with queue := [] })
    else ([], q.foldl (fun d r => ledGrant d r false) (modLed d fun l => { l with queue := [] }))
  let late := x.1.filter fun r => decide (r.lim ≠ 0) && decide (r.lim ≤ r.cyc)
  modLed x.2 fun l => { l with queue := x.1.filter fun r => !(decide (r.lim ≠ 0) && decide (r.lim ≤ r.cyc)),
                               expired := l.expired ++ late, iv := { l.iv with nto := (l.iv.nto + late.length) % 65536 } }

/-- The bus energy of a channel over the cycle that ends, in units of its energy integrator (R272, R279). -/
def ledEnergy (d : Dev) (c : Chan) : Int := ledBus d.led.etaC d.led.etaD ((ch d c).meas.e - d.led.e0.get c)

/-- The cycle that ends enters the measured bus power (R279, R280): NET, the run outside the limits, and the record interval. -/
def ledMeasure (d : Dev) (len : Nat) : Dev :=
  let es := allChans.map fun c => ledEnergy d c
  let net := es.foldl (· + ·) 0
  let imp := (es.map fun e => max 0 e).foldl (· + ·) 0
  let exp := (es.map fun e => max 0 (-e)).foldl (· + ·) 0
  let scale : Int := (len * 10000000000 : Nat)
  let m := meanUnits d (net * 256) (len * 10000000000)
  let d := wr m.2 bLED LED_NETP (satWord m.1)
  let l := d.led
  let hi := decide (l.limI * scale < net * 256)
  let lo := decide (net * 256 < -(l.limX * scale))
  let run := if hi || lo then satInc 1000 l.run else 0
  let third := decide (run = 3) && decide (l.run = 2)
  let frozen := flag d bLED LED_STS 16
  let fl := l.iv.fl ||| b2n third ||| 2 * b2n frozen ||| 8 * b2n d.tb.fl.synth ||| 0x10 * b2n (flag d bXC XC_STS 9)
  let d := if run = 0 then setFlag d bLED LED_STS 16 false else d
  modLed d fun l =>
    { l with run := run, overDue := if third then true else l.overDue && decide (run ≠ 0),
             frzSign := if hi then 1 else if lo then -1 else l.frzSign,
             e0 := Vector.ofFn fun c => (ch d c).meas.e,
             iv := { l.iv with cycles := l.iv.cycles + 1, taps := l.iv.taps + len, net := l.iv.net + net, imp := l.iv.imp + imp,
                               exp := l.iv.exp + exp, fl := fl } }

/-- The record interval that ends at this boundary becomes a record that is due, with the state just before it (R279). -/
def ledInterval (d : Dev) : Dev :=
  let l := d.led
  if l.iv.cycles < l.recN then d else
  let x := ledBefore d
  let due : LedDue :=
    { ts := tsOfTaps (lineEndOf d.tb.fl), iv := l.iv, cend := x.1, limi := l.limI, limx := l.limX, nq := x.2.1, pstate := x.2.2 }
  let fl := 0x10 * b2n (flag d bXC XC_STS 9)
  modLed d fun l => { l with iv := { cmax := ledC d, fl := fl }, due := if flag d bLED LED_RCFG 31 then none else some due,
                             recN := max 1 (fld d bLED LED_RCFG 7 0) }

/-- New limits, efficiencies and enable take effect at a line-cycle boundary (R277); while the crossing is down FD receives none. -/
def ledLimits (d : Dev) : Dev :=
  if !d.xc.up then d else
  let i := (rd d bLED LED_IMP).toNat
  let x := (rd d bLED LED_EXP).toNat
  modLed d fun l =>
    { l with limI := i, limX := x, etaC := fld d bLED LED_ETA 10 0, etaD := fld d bLED LED_ETA 26 16, en := flag d bLED LED_CTL 0,
             iv := { l.iv with fl := l.iv.fl ||| 0x20 * b2n (decide (l.limI ≠ i ∨ l.limX ≠ x)) } }

/-- A line-cycle boundary at the ledger, in the order of R278; `len` is the length in taps of the cycle that ends. -/
def ledgerLine (d : Dev) (len : Nat) : Dev := ledQueueLine (ledLimits (ledInterval (ledMeasure d (max 1 len))))

/-- The ledger record that is due is made (R279). -/
def doLedgerRecord (d : Dev) : Dev :=
  match d.led.due with
  | none => d
  | some r =>
    let t := r.iv.taps * 10000000000
    let net := meanUnits d (r.iv.net * 256) t
    let imp := meanUnits net.2 (r.iv.imp * 256) t
    let exp := meanUnits imp.2 (r.iv.exp * 256) t
    let cmax := meanUnits exp.2 r.iv.cmax 1000
    let cend := meanUnits cmax.2 r.cend 1000
    let d := modLed cend.2 fun l => { l with seq := l.seq + 1, due := none }
    let bytes := leBytes 1 8 ++ leBytes 1 1 ++ leBytes 2 0xFFFF ++ leBytes 4 d.led.seq.toNat ++ leBytes 8 r.ts.toNat
      ++ leBytes 8 (ltOf d r.ts) ++ leBytes 4 (ux 32 (satI 32 net.1)) ++ leBytes 4 (ux 32 imp.1) ++ leBytes 4 (ux 32 exp.1)
      ++ leBytes 4 (ux 32 (satI 32 cmax.1)) ++ leBytes 4 (ux 32 (satI 32 cend.1)) ++ leBytes 4 r.limi ++ leBytes 4 r.limx
      ++ leBytes 2 r.nq ++ leBytes 2 r.iv.nadm ++ leBytes 2 r.iv.nto ++ leBytes 2 r.iv.fl ++ leBytes 2 d.led.lost ++ leBytes 2 r.pstate
    let s := spoolDevice d bytes
    modLed s.2 fun l => { l with lost := if s.1 then 0 else satInc 0xFFFF l.lost }

/-- A run has reached its third cycle (R280): OVER, the Folio event, and the freeze when OVRFRZ asks for it. -/
def doLedover (d : Dev) : Dev :=
  if !d.led.overDue then d else
  let d := fieldEvent (raEvent d bLED LED_STS 0x10) bLED 0x8023 (locHD 0 0) (rd d bLED LED_NETP) 0
  let d := if flag d bLED LED_CTL 2 then setFlag (modLed d fun l => { l with iv := { l.iv with fl := l.iv.fl ||| 2 } }) bLED LED_STS 16 true
    else d
  modLed d fun l => { l with overDue := false }

end Sys2Proof.Machine
end

