-- ==== Sys2Proof/Machine/Colophon.lean ====
section
/-! DEFINITION. Colophons on the field side: opening, the flags gathered while open, closing, and what SEAL and START need of them (R23, R392 to R394). -/

namespace Sys2Proof.Machine

open Sys2Proof

/-- Flags of R393 added to a channel's open Colophon. -/
def coloFlag (d : Dev) (c : Chan) (fl : Nat) : Dev :=
  modCh d c fun k => { k with colo := k.colo.map fun o => { o with flags := o.flags ||| fl } }

/-- Flags of R393 added to every open Colophon. -/
def coloFlagAll (d : Dev) (fl : Nat) : Dev := forEach allChans d fun d c => coloFlag d c fl

/-- An aux result while a Colophon is open (R393, TMAX). -/
def coloTemp (d : Dev) (c : Chan) (t : Int) : Dev :=
  modCh d c fun k => { k with colo := k.colo.map fun o => { o with tmax := some (match o.tmax with | some x => max x t | none => t) } }

/-- A Colophon opens (R392): the recipe digest of the slot that was started, the cell identifier, TS, LT, Q and E of this instant. -/
def coloOpen (m : Mem) (d : Dev) (c : Chan) (slot entry : Nat) : Dev :=
  let o : Colo :=
    { slot := slot, entry := entry, flev := fld d (bankOf c .bk) (BK_IMG_A + 8 * slot) 7 0, rdig := recipeDigest m d c.bank slot,
      cell := (List.range 8).map fun n => rd d (chBlk c) (CH_CELLID + 4 * n),
      ots := fieldNow d, olt := ltOf d (fieldNow d), q0 := grpSum d c (fun k => k.meas.q), e0 := grpSum d c (fun k => k.meas.e),
      cdig := catDigest d, zres := [], pres := [], nx := 0, steps := 0,
      flags := 4 * b2n (decide (fld d (bankOf c .rsv) RSV_SUBST 4 0 = c.inBank)) + 8 * b2n (flag d bXC XC_STS 9) + 0x10 * b2n d.tb.fl.synth,
      tmax := none }
  modCh d c fun k => { k with colo := some o }

/-- The length of the body of a Colophon: SIGOFS (R393). -/
def coloSigOfs (o : Colo) : Nat := 440 + 24 * o.zres.length + 32 * o.pres.length

/-- A limit of the set-up as a word; 0x8000_0000 when it is unset. -/
def limWord (x : Option Int) : Word := match x with | some v => BitVec.ofInt 32 v | none => 0x80000000

/-- The body of a Colophon that closes at this instant, without its SEQ, which HD sets (R393, R395). -/
def coloBody (d : Dev) (c : Chan) (o : Colo) (auto : Bool) : List Byte × Dev :=
  let k := ch d c
  let noI := noShunt d c
  let dq := if noI then 0 else (grpSum d c (fun k => k.meas.q) - o.q0) / 100000
  let de := if noI then 0 else (grpSum d c (fun k => k.meas.e) - o.e0) / 400000000000000
  let s : UncIn := { noise := .over (tsDiff (fieldNow d) o.ots / 10240).toNat, warm := false }
  let sum := decide (1 < (members d c).length)
  let uq := uncOf d c (noI || k.meas.ovrI) sum .q dq s
  let ue := uncOf uq.2 c (noI || k.meas.ovrI) sum .e de s
  let d := ue.2
  let dr := pairDrift d (servingPair d c)
  let cd := catDigest d
  let fl := o.flags ||| (0x40 * b2n auto) ||| (0x100 * b2n (decide (cd ≠ o.cdig))) ||| (0x200 * b2n (catDue d))
    ||| (0x400 * b2n (catNohist d))
  let s := k.mach.setup
  let addr := fld d bSL SL_ADDR 9 0 + 0x8000 * b2n (flag d bSL SL_ADDR 10)
  let bytes := leBytes 4 0x4F4C4F43 ++ leBytes 1 1 ++ leBytes 1 c.bank.val ++ leBytes 1 c.inBank ++ leBytes 1 o.flev
    ++ leBytes 1 o.zres.length ++ leBytes 1 o.pres.length ++ leBytes 2 o.nx ++ leBytes 2 (coloSigOfs o + 3376) ++ leBytes 2 addr
    ++ leBytes 4 0 ++ leBytes 1 o.slot ++ leBytes 1 o.entry ++ leBytes 2 0
    ++ wordBytes [rd d bSEC SEC_SERIAL_LO, rd d bSEC SEC_SERIAL_HI]
    ++ wordBytes ((List.range 4).map fun i => rd d bSEC (SEC_KEYFP + 4 * i)) ++ wordBytes o.cell ++ o.rdig ++ leBytes 64 cd
    ++ shaBytes (imageDigest d (hostSlot d) ++ imageDigest d (fieldSlot d)) ++ leBytes 8 o.ots.toNat ++ leBytes 8 o.olt
    ++ leBytes 8 (fieldNow d).toNat ++ leBytes 8 (ltOf d (fieldNow d))
    ++ wordBytes [rd d bCAT CAT_COUNT, rd d bCAT CAT_LAST_OPSEC, dr.1] ++ leBytes 2 (min 0xFFFF (urefOf d (c.bank.val / 4)))
    ++ leBytes 2 (catDueDays d) ++ leBytes 8 (ux 64 dq) ++ leBytes 8 (ux 64 de) ++ leBytes 2 uq.1 ++ leBytes 2 ue.1
    ++ leBytes 2 o.steps ++ leBytes 2 fl ++ leBytes 4 (rd d (chBlk c) CH_TERM).toNat
    ++ leBytes 2 (match o.tmax with | some t => ux 16 t | none => 0x8000) ++ leBytes 2 (fld d (chBlk c) CH_T 15 0)
    ++ wordBytes [limWord s.vmin, limWord s.vmax, limWord s.ilim, limWord s.plim]
    ++ wordBytes [rd d (bankOf c .mld) (MLD_BIND + 4 * c.inBank), rd d (bankOf c .mld) (MLD_VIOL + 4 * c.inBank)]
    ++ (if auto then leBytes 64 0 else wordBytes k.mach.w.toList) ++ o.zres.flatten ++ o.pres.flatten
  (bytes, d)

/-- The open Colophon closes and its body is queued for signing through the spool (R392, R395). -/
def coloClose (d : Dev) (c : Chan) (auto : Bool) : Dev :=
  match (ch d c).colo with
  | none => d
  | some o =>
    let b := coloBody d c o auto
    modCh (spoolBody b.2 c b.1) c fun k => { k with colo := none }

/-- Whether a Colophon holds at least one result (R392). -/
def coloHasResults (d : Dev) (c : Chan) : Bool :=
  match (ch d c).colo with
  | some o => decide (o.zres ≠ []) || decide (o.pres ≠ [])
  | none => false

/-- Whether the spool can take the body of the Colophon that a START would close (R23, R199). -/
def coloStartRoom (d : Dev) (c : Chan) : Bool :=
  match (ch d c).colo with
  | some o => !coloHasResults d c || spoolHasRoom d (coloSigOfs o)
  | none => true

/-- A START that takes effect closes a Colophon with results, discards one without, and opens a new one (R392). -/
def coloStart (m : Mem) (d : Dev) (c : Chan) (slot entry : Nat) : Dev :=
  let d := if coloHasResults d c then coloClose d c true else modCh d c fun k => { k with colo := none }
  coloOpen m d c slot entry

/-- SEAL: the open Colophon closes and a new one opens at the same instant (R392). -/
def coloSeal (m : Mem) (d : Dev) (c : Chan) : Dev :=
  match (ch d c).colo with
  | some o => coloOpen m (coloClose d c false) c o.slot o.entry
  | none => d

/-- Whether the spool has the space that a SEAL needs (R23). -/
def coloSealRoom (d : Dev) (c : Chan) : Bool :=
  match (ch d c).colo with
  | some o => spoolHasRoom d (coloSigOfs o)
  | none => true

end Sys2Proof.Machine
end

