-- ==== Sys2Proof/Machine/Steps.lean ====
section
/-! DEFINITION. Steps and the safe state: how a step is requested, starts, is checked at a control sample boundary and ends (R184 to R206), machine faults (R194), and what a channel's safe state does (R101, R192, R193, R221). -/

namespace Sys2Proof.Machine

open Sys2Proof

/-! ### Drive outputs -/

/-- The drive lands of a channel in its safe state (R70): low in switched mode; code 0 and high-impedance in linear mode. -/
def safeLands (d : Dev) (c : Chan) : Dev :=
  let d := trimSettle d c
  let lin := flag d (chBlk (leadOf d c)) CH_CTRL 1
  let d := modForce d c fun f =>
    { f with drive := if lin then .hiZ else .low, pend := [], upd := [], wasOpen := true, fromSafe := true, perStart := none,
             vwRun := 0, sclimAt := none, shareAt := none }
  let d := wr (wr d (chBlk c) CH_DUTY 0) (chBlk c) CH_DAC 0
  setFld (setFlag (setFlag d (chBlk c) CH_STS 18 true) (chBlk c) CH_STS 19 false) (chBlk c) CH_STS 23 20 0

/-- The drive lands of a channel in OPEN (R84): low in switched mode; in linear mode DAC code 0, which appears at the loop tick of the
first update sampled in OPEN (R81, R88). -/
def openLands (d : Dev) (c : Chan) : Dev :=
  if flag d (chBlk c) CH_STS 18 then d else
  let d := trimSettle d c
  let lin := flag d (chBlk (leadOf d c)) CH_CTRL 1
  let d := modForce d c fun f =>
    { f with drive := if lin then .dac else .low, pend := [], upd := if lin then f.upd else [], wasOpen := true, perStart := none, vwRun := 0 }
  let d := wr d (chBlk c) CH_DUTY 0
  setFld (setFlag d (chBlk c) CH_STS 19 false) (chBlk c) CH_STS 23 20 0

/-! ### TRIG messages out (R221, R316, R317) -/

/-- Sends a TRIG of this device out of both ports (R317). -/
def sendTrig (d : Dev) (kind : Fin 16) (group : Nat) (ts : TS) (ochan : Nat) : Dev :=
  let m : TrigMsg :=
    { vmaj := 3, vmin := ⟨fld d bSL SL_VER 27 24 % 16, Nat.mod_lt _ (by decide)⟩, kind := kind, hold := flag d bTB TB_STS 18,
      ctrl := false, group := BitVec.ofNat 8 group, ts := ts,
      origin := ⟨fld d bSL SL_ADDR 9 0 % 1024, Nat.mod_lt _ (by decide)⟩, hops := 0, ochan := BitVec.ofNat 8 ochan,
      crc1 := true, crc2 := true }
  let put := fun (p : SlPort) => if p.lock then { p with trigTx := some m } else p
  modPort (modPort d .u put) .d put

/-- A channel releases every level it holds (R221). -/
def releaseHolds (d : Dev) (c : Chan) : Dev :=
  let hs := (ch d c).mach.holds
  let d := gtMove ((hs.filter fun h => decide (h.target < 8)).map fun h => h.target) (fun d => modMach d c fun m => { m with holds := [] }) d
  let d := trigOutRelease d c
  forEach (hs.filter fun h => decide (h.target = 9)) d fun d h => sendTrig d 4 h.group (fieldNow d) c.val

/-! ### The end of a step (R190 to R192, R206) -/

/-- The effective mode and setpoint a step leaves for a HOLD after it (R204). -/
def finalOf (s : Step) (playLast : Int) : Nat × Int :=
  match s.kind with
  | .force m sp => (m, sp)
  | .ramp m t _ => (m, t)
  | .hold => (s.mode, s.setpoint)
  | .rest => (4, 0)
  | .wave => (s.mode, playLast)
  | .eis _ => (4, 0)
  | .pulse _ _ _ _ => (4, 0)

/-- The mode that a step drove in and its final setpoint, from which a RAMP after it starts; none for a step that did not drive (R203). A PULSE
drives in CC with the setpoint it has at its end, an EIS with its DC current. -/
def driveOf (s : Step) (playLast : Int) : Option (Nat × Int) :=
  match s.kind with
  | .eis _ => some (0, s.setpoint)
  | .pulse _ _ _ _ => some (0, s.setpoint)
  | _ => if (finalOf s playLast).1 = 4 then none else some (finalOf s playLast)

/-- The device with the measurement of a channel's group put back to a tick. -/
def tickMeas (d : Dev) (c : Chan) (l : List Meas) : Dev := forEach ((members d c).zip l) d fun d x => modMeas d x.1 fun _ => x.2

/-- What a change makes of the device when it sees the measurement of a channel's group as it stood at a tick; the measurement itself runs on,
but for the count of lost records. -/
def withTick (d : Dev) (c : Chan) (tk : Option Tick) (f : Dev → Dev) : Dev :=
  match tk with
  | none => f d
  | some t =>
    let old := (members d c).map fun x => (ch d x).meas
    let d := f (tickMeas d c t.meas)
    forEach ((members d c).zip old) d fun d x => modMeas d x.1 fun m => { x.2 with lost := m.lost }

/-- The step record of a step that ends (R206). -/
def stepRecord (d : Dev) (c : Chan) (s : Step) (ts : TS) (term : Word) (counter : Nat) : Dev :=
  if !flag d (chBlk c) CH_SREC 0 then d else
  let x := if s.started then intervalMean d c fun _ => s.cum0 else ((0, 0), d)
  let w := if s.started then intervalSmp d c s.cum0 else (0, 0)
  makeRecord x.2 c
    { type := 4, ts := ts, v := x.1.1, i := x.1.2, at30 := term.toNat % 0x10000,
      fl := (s.flags ||| contFlags d c ||| 0x1000 * b2n (auxStale d c)) &&& 0x7FFF, step := counter,
      noise := .over w.1, smp := w.1, fast := w.2 }

/-- The step counter is about to change: captures keep what it was (R242). -/
def counterNote (d : Dev) (c : Chan) : Dev := modCap d c fun k => { k with steps := (d.tb.mono, (ch d c).mach.counter) :: k.steps }

/-- The play lead of R212: 1.6 µs in taps. -/
def playLead : Nat := 163840

/-- A machine leaves a wait: it runs on, in the return phase of a PLAY or STREAM step in STEP (R169, R187). -/
def resumed (m : Mach) : Mach := { m with st := if m.step.isSome then .step else .run, wait := .none }

/-- The machine of a channel whose step has ended (R189 to R191, R213): nothing plays, and a machine that waited for the end resumes in
its first issue slot after it. A Mould BRANCH takes it to its handler out of any wait. -/
def endedMach (now : Nat) (m : Mach) (s : Step) (code : Nat) (late : Bool) : Mach :=
  let m := { m with step := none, playing := none, queue := [], replaced := none, passed := [], itemAt := none,
                    lead := if late then m.lead else [], provs := if late then [] else m.provs, abortReq := false,
                    prevMode := some (finalOf s m.playLast), prevDrive := if s.started then driveOf s m.playLast else none,
                    endedAt := some now }
  let free (pc : Nat) : Mach := { m with st := .run, wait := .none, pc := pc, slotFrom := max m.slotFrom (now + 1) }
  match m.st, (if code = 6 then s.branch else none) with
  | .run, some h => free h
  | .step, some h => free h
  | .wait, some h => free h
  | .step, none => free m.pc
  | .wait, none => if m.wait = .room then free m.pc else m
  | _, _ => m

/-- The running or waiting step ends with a termination code and detail (R189 to R192): TERM, the step record, and the
machine free to resume; the lands go to OPEN unless the channel enters its safe state. A step that ended at an earlier tick takes its values
from that tick, and OPEN comes a play lead after it (R220). -/
def endStepAt (d : Dev) (c : Chan) (tk : Option Tick) (code detail : Nat) : Dev :=
  match (ch d c).mach.step with
  | none => d
  | some s =>
    let counter := if s.started then (ch d c).mach.counter else ((ch d c).mach.counter + 1) % 65536
    let term : Word := BitVec.ofNat 32 (counter * 65536 + detail * 256 + code)
    let at_ := match tk with | some t => t.at_ | none => d.tb.mono
    let ts := match tk with | some t => t.ts | none => fieldNow d
    let dm := match tk with | some t => tickMeas d c t.meas | none => d
    let len := if s.started then (at_ - s.startMono) / tapsPerUs else 0
    let qs := if s.started then stepQ dm c else 0
    let es := if s.started then stepE dm c else 0
    let d := raEvent (wr d (chBlk c) CH_TERM term) (chBlk c) CH_ASTS 0x4
    let d := withTick d c tk fun d => stepRecord d c s ts term counter
    let d := eisEnd d c s code
    let d := restBreak (ledgerRemove d c) c.bank
    let d := if tk.isSome then modMach d c fun m => { m with tail := some (s, at_ + playLead) } else forEach (members d c) d openLands
    let d := if s.started then modCh d c fun k => { k with tdc := { k.tdc with steps := winClose k.tdc.steps ts } }
      else counterNote d c
    modMach d c fun m => endedMach at_ { m with counter := counter, lastLen := len, lastQs := qs, lastEs := es } s code tk.isSome

/-- The running or waiting step ends now. -/
def endStep (d : Dev) (c : Chan) (code detail : Nat) : Dev := endStepAt d c none code detail

/-- A request that has not started and does not wait for the ledger leaves nothing behind: no step ends (R193, R201). -/
def dropStep (d : Dev) (c : Chan) : Dev :=
  modMach (restBreak (ledgerRemove d c) c.bank) c fun m =>
    { m with step := none, playing := none, queue := [], replaced := none, passed := [], provs := [], itemAt := none, lead := [],
             abortReq := false, st := if m.st = .step then .run else m.st }

/-- A step whose start lies in the period of a safe-state entry has not started (R201). -/
def undoStart (d : Dev) (c : Chan) (s : Step) : Dev :=
  let d := modCap d c fun k => { k with steps := k.steps.filter fun x => decide (x.1 ≠ s.startMono) }
  let d := modCh d c fun k =>
    { k with colo := k.colo.map fun o => { o with steps := (o.steps + 65535) % 65536 },
             tdc := { k.tdc with steps := winClose k.tdc.steps (fieldNow d) } }
  dropStep (modMach d c fun m => { m with counter := (m.counter + 65535) % 65536, setup := s.setup }) c

/-! ### The priority of causes (R192) -/

/-- The priority of a termination code in R192; `ev` for an event-form UNTIL. -/
def termPrio (code : Nat) (ev : Bool) : Nat :=
  match code with
  | 0x17 => 1 | 0x16 => 2 | 0x15 => 3 | 0x14 => 4 | 0x13 => 5 | 0x12 => 6 | 0x11 => 7 | 0x10 => 8 | 0x08 => 9 | 0x06 => 10
  | 0x05 => 11 | 0x04 => if ev then 15 else 12
  | 0x02 => 13 | 0x03 => 14 | 0x07 => 16 | _ => 17

/-- The priority of a cause with its detail: bit 3 of the detail marks an event-form UNTIL. -/
def causePrio (x : Nat × Nat) : Nat := termPrio x.1 (decide (x.2 / 8 % 2 = 1) && decide (x.1 = 4))

/-- A list with its last element of a kind changed. -/
def mapLast {α : Type} (p : α → Bool) (f : α → α) : List α → List α
  | [] => []
  | x :: l => if l.any p then x :: mapLast p f l else if p x then f x :: l else x :: l

/-- The step record of a channel that was made at an instant names another termination. -/
def recordTerm (d : Dev) (c : Chan) (ts : TS) (low : Nat) : Dev :=
  let mine (i : SpoolItem) : Bool := match i with
    | .record (some x) b => decide (x = c) && decide (b.take 1 = leBytes 1 4) && decide ((b.drop 8).take 8 = leBytes 8 ts.toNat)
    | _ => false
  let name (i : SpoolItem) : SpoolItem := match i with
    | .record x b => .record x (b.take 0x30 ++ leBytes 2 low ++ b.drop 0x32)
    | i => i
  { d with xc := { d.xc with spool := mapLast mine name d.xc.spool } }

/-- A cause that ends a step at its own instant meets a step that has ended at this instant: TERM and the step record take the higher of
the two (R192). -/
def reEnd (d : Dev) (c : Chan) (code detail : Nat) : Dev :=
  let t := rd d (chBlk c) CH_TERM
  if (ch d c).mach.endedAt = some d.tb.mono ∧ causePrio (code, detail) < causePrio (bits t 7 0, bits t 15 8) then
    recordTerm (setFld d (chBlk c) CH_TERM 15 0 (detail * 256 + code)) c (fieldNow d) (detail * 256 + code)
  else d

/-- Whether a step waits for the ledger: it counts as a step that runs (R193). -/
def stepDeferred (d : Dev) (c : Chan) : Bool := (reqOf d.led.queue c).isSome || (reqOf d.led.expired c).isSome

/-- Whether a machine issues in its slot: it runs, or it is in the return phase of a PLAY or STREAM step (R187, R189). -/
def canIssue (d : Dev) (c : Chan) : Bool :=
  let m := (ch d c).mach
  !isFollower d c && m.startReq.isNone &&
  (decide (m.st = .run) ||
    (decide (m.st = .step) && m.queued.isNone && (match m.step with | some s => decide (s.kind = .wave) | none => false)))

/-- What a safe-state entry keeps of a machine that could issue in its slot at that instant, for a SEAL in the same slot (R397): the
instant, whether its Colophon carried SAFE already, and CH_TERM. -/
def sealKeep (d : Dev) (c : Chan) : Option (Nat × Bool × Word) :=
  if canIssue d c then
    some (d.tb.mono, (match (ch d c).colo with | some o => decide (o.flags / 0x80 % 2 = 1) | none => false), rd d (chBlk c) CH_TERM)
  else (ch d c).mach.sealAt

/-- A channel enters its safe state with a termination code (R101, R192, R193): the lands go safe, a running step or a
deferred request ends, levels it holds are released, a START that has not taken effect is refused, and a machine that ran
or waited is in SAFEHALT. A step that starts in the period of the entry does not start (R201). -/
def safeChan (d : Dev) (c : Chan) (code detail : Nat) : Dev :=
  let m := (ch d c).mach
  let late := sealKeep d c
  let d := releaseHolds (safeLands d c) c
  let d := coloFlag d c 0x80
  let d := modSeq d c.bank fun q => { q with pending := q.pending.map fun s =>
    if s.chan.val = c.inBank then { s with safe := true } else s }
  let d := if m.startReq.isSome then
      setFld (raEvent (modMach d c fun m => { m with startReq := none, st := .safehalt }) (chBlk c) CH_ASTS 0x40)
        (chBlk c) CH_ASTS 20 17 7 else d
  let d := match m.step with
    | none => reEnd d c code detail
    | some s =>
      if s.started && decide (s.startTs.toNat / 256 = (fieldNow d).toNat / 256) then undoStart d c s
      else if s.started || stepDeferred d c then endStep d c code detail
      else dropStep d c
  let d := if m.st ∈ [.run, .step, .wait] ∨ m.startReq.isSome then
      raEvent (modMach (ledgerStop d c) c fun m => { m with st := .safehalt, wait := .none, queued := none }) (chBlk c) CH_ASTS 0x10
    else d
  safeLands (modMach d c fun m => { m with tail := none, provs := [], sealAt := late }) c

/-- A channel and its whole group enter the safe state together (R31). -/
def safeGroup (d : Dev) (c : Chan) (code detail : Nat) : Dev :=
  forEach (members d c) d fun d m => safeChan d m code detail

/-- Every channel of a bank enters its safe state (R101). -/
def safeBank (d : Dev) (b : Bank) (code : Nat) : Dev := forEach (bankChans b) d fun d c => safeChan d c code 0

/-- A contained fault of a channel: reported in its window or its group leader's, and the group goes safe (R31, R334). -/
def chanFault (d : Dev) (c : Chan) (fcode : Nat) (loc p0 p1 : Word) (live : Bool) (term detail : Nat) : Dev :=
  safeGroup (raise d (chBlk (leadOf d c)) fcode loc p0 p1 live) c term detail

/-- The device's safe state: every channel of all eight banks (R18, R340). -/
def safeAll (d : Dev) (code : Nat) : Dev := forEach allChans d fun d c => safeChan d c code 0

/-- A machine fault (R194): state FAULT with cause and the offset of the faulting instruction, a running step ends with CHFAULT,
the channel goes safe. -/
def machineFaultAt (d : Dev) (c : Chan) (cause pc : Nat) : Dev :=
  let d := wr d (chBlk c) CH_AFAULT (BitVec.ofNat 32 (cause * 0x10000 + pc))
  let d := raEvent (modMach (ledgerStop d c) c fun m => { m with st := .fault, wait := .none, queued := none }) (chBlk c) CH_ASTS 0x20
  chanFault d c 0x0101 (locFD c 7 0) (BitVec.ofNat 32 cause) (BitVec.ofNat 32 pc) false 0x13 cause

/-- A machine fault of the instruction at the PC. -/
def machineFault (d : Dev) (c : Chan) (cause : Nat) : Dev := machineFaultAt d c cause (ch d c).mach.pc

/-! ### Requesting and starting a step (R186, R189, R202 to R204) -/

/-- What a HOLD that a machine issues now takes its mode from: while a step runs, from that step (R204). -/
def holdMach (m : Mach) : Mach := { m with prevMode := (m.step.map fun s => finalOf s m.playLast).or m.prevMode }

/-- What stops a step that drives: 9 LIMUNSET or 10 OPERAND (R186, R194). -/
def driveFault (d : Dev) (c : Chan) (k : StepKind) : Option Nat :=
  let m := (ch d c).mach
  if !stepDrives (holdMach m) k then none else
  match m.setup.vmin, m.setup.vmax, m.setup.ilim, m.setup.plim with
  | some lo, some hi, some _, some _ =>
    if hi < lo ∨ (members d c).any (fun x => noShunt d x) then some 10 else none
  | _, _, _, _ => some 9

/-- A step that has been requested and has not started. -/
def newStep (d : Dev) (c : Chan) (k : StepKind) : Step :=
  let m := (ch d c).mach
  { kind := k, started := false, mode := (modeOf m k).1, setpoint := (modeOf m k).2, s0 := 0, setup := m.setup, startTs := 0,
    startMono := 0, q0 := 0, e0 := 0, cum0 := {}, flags := 0, settled := false, ending := none, deferred := false, branch := none,
    asked := d.tb.mono }

/-- A step instruction requests its step, or waits in state STEP while a waveform-follow step runs (R189, R213). -/
def requestStep (d : Dev) (c : Chan) (k : StepKind) : Dev :=
  let s := newStep d c k
  modMach (restBreak d c.bank) c fun m =>
    match m.step with
    | some _ => { m with st := .step, queued := some k, pc := m.pc + 1 }
    | none => { m with st := .step, step := some s, pc := m.pc + 1 }

/-- The channel may drive: its bank's start delay does not run (R98) and it is not in its safe state. -/
def mayDrive (d : Dev) (c : Chan) : Bool :=
  (bk d c.bank).seq.endlyAt.isNone && !flag d (chBlk c) CH_STS 18

/-- The last sample of a step that has ended has played: OPEN begins (R220). -/
def tailOpen (d : Dev) (c : Chan) : Dev :=
  if (ch d c).mach.tail = none then d
  else forEach (members d c) (modMach d c fun m => { m with tail := none, lead := [] }) openLands

/-- OPEN of a step that has ended begins once its instant has come. -/
def tailDue (d : Dev) (c : Chan) : Dev :=
  match (ch d c).mach.tail with
  | some x => if x.2 ≤ d.tb.mono then tailOpen d c else d
  | none => d

/-- The lands of a channel begin to drive its step: dead times at DTMAX (R78), the first update of the step to come (R88). -/
def beginDrive (d : Dev) (c : Chan) : Dev :=
  let d := trimSettle d c
  let l := leadOf d c
  let lin := flag d (chBlk l) CH_CTRL 1
  let dtmax := fld d (chBlk l) CH_DT_LIM 31 16
  let open_ := (ch d c).force.wasOpen
  let d := if open_ && !lin then wr d (chBlk c) CH_DT_CMD (BitVec.ofNat 32 (dtmax * 0x10000 + dtmax)) else d
  let d := modForce d c fun f =>
    { f with drive := if lin then .dac else .pwm, fresh := true, wasOpen := false, swtLost := f.swtLost && !open_,
             swtQuiet := if open_ then 0 else f.swtQuiet }
  setFlag d (chBlk c) CH_STS 19 true

/-- The time slots of a capture that wait for a step start take the instant S + Wa µs (R235). -/
def slotTimes (d : Dev) (c : Chan) : Dev :=
  modCap d c fun k => { k with slots := k.slots.map fun s => s.map fun x =>
    if x.live && x.kind == 3 && x.timeAt.isNone then { x with timeAt := some (d.tb.mono + x.wa.toNat * tapsPerUs) } else x }

/-- The event slots of an ARMED capture that a snapshot first meets (R235). -/
def slotEvents (d : Dev) (c : Chan) (s : Snapshot) : Dev :=
  modCap d c fun k =>
    if k.st ≠ .armed ∨ d.tb.mono ≤ k.firstAt then k else
    { k with slots := k.slots.map fun o => o.map fun x =>
      if x.live && x.kind == 5 && x.met.isNone && condSnap s x.code then { x with met := some d.tb.mono } else x }

/-- The step starts at its start boundary (R189, R202): the set-up is copied and its one-step parts renewed, the step
counter advances, the integrators are referenced, and a step that drives begins to drive. A waveform-follow step begins to
drive when its first setpoint enters the loop (R212). An EIS or PULSE step that fails a check is a machine fault instead, before it starts
(R194, R252, R262). -/
def startStep (d : Dev) (c : Chan) : Dev :=
  match (ch d c).mach.step with
  | none => d
  | some s =>
    if !eisMay d c s.kind then machineFaultAt d c 10 ((ch d c).mach.pc - 1) else
    let d := tailOpen d c
    let m := (ch d c).mach
    let me := measAt d (ch d c)
    let md := modeOf m s.kind
    let s0 := match s.kind with | .ramp r _ _ => rampStart d c r | _ => md.2
    let s' : Step :=
      { s with started := true, mode := md.1, setpoint := (match s.kind with | .ramp _ _ _ => s0 | _ => md.2), s0 := s0,
               setup := m.setup, startTs := fieldNow d, startMono := d.tb.mono, q0 := me.q, e0 := me.e, cum0 := me.cum,
               settled := false, ending := none }
    let d := pendSet (counterNote d c) c fun m =>
      { m with step := some s', counter := (m.counter + 1) % 65536, und := false, mld := false, dfr := s.deferred,
               setup := { m.setup with time := 0, charge := 0, untils := [], decl := none, defLim := 0 } }
    let d := modCh d c fun k => { k with colo := k.colo.map fun o => { o with steps := (o.steps + 1) % 65536 } }
    let d := modCh d c fun k => { k with tdc := { k.tdc with steps := winOpen k.tdc.steps (fieldNow d) } }
    let d := slotTimes (modCap d c fun k => { k with runs := [{}, {}, {}, {}] }) c
    let d := eisStart d c
    let d := if stepDrives m s.kind then d else forEach (members d c) d fun d x => modForce d x fun f => { f with fromSafe := true }
    if stepDrives m s.kind ∧ s.kind ≠ .wave ∧ mayDrive d c then forEach (members d c) d beginDrive else d

/-! ### The causes that end a step at a boundary (R185, R192, R203, R205) -/

/-- The higher of two causes (R192); at equal priority the first. -/
def higherCause (a : Option (Nat × Nat)) (b : Nat × Nat) : Option (Nat × Nat) :=
  match a with
  | none => some b
  | some x => if causePrio b < causePrio x then some b else some x

/-- A cause offered to end the running step at this boundary (R192). -/
def offerEnd (d : Dev) (c : Chan) (code detail : Nat) : Dev :=
  modMach d c fun m => { m with step := m.step.map fun s => { s with ending := higherCause s.ending (code, detail) } }

/-- Whether a comparison of R185 holds: 0 GE, 1 LE, 2 GT, 3 LT. -/
def cmpHolds (cmp : Nat) (x y : Int) : Bool :=
  match cmp with
  | 0 => decide (y ≤ x)
  | 1 => decide (x ≤ y)
  | 2 => decide (y < x)
  | _ => decide (x < y)

/-- Whether an end condition holds at a boundary: an event form in the snapshot, a level form on the live operand, where
V, I and P wait for the first settled output of the step (R185, R205). -/
def untilHolds (d : Dev) (c : Chan) (s : Step) : UntilCond → Bool
  | .event code neg => condSnap (ch d c).mach.snap code != neg
  | .level op cmp mag thr =>
    if op ≤ 2 ∧ !s.settled then false else
    match liveOperand d c op with
    | some x => cmpHolds cmp (if mag then x.natAbs else x) thr
    | none => false

/-- The first end condition of each form that holds, as causes with their details (R191, R192). -/
def untilCauses (d : Dev) (c : Chan) (s : Step) : List (Nat × Nat) :=
  let hits := s.setup.untils.zipIdx.filter fun u => untilHolds d c s u.1
  hits.map fun u => (4, match u.1 with | .event _ _ => u.2 + 8 | .level _ _ _ _ => u.2)

/-- The pending condition that an UNTIL which ends a step clears (R176). -/
def clearUntil (m : Mach) (s : Step) (detail : Nat) : Mach :=
  match s.setup.untils[detail % 8]? with
  | some (.event code false) => clearCond m code
  | _ => m

/-- The setpoint of a RAMP at a boundary (R203). -/
def rampAt (s0 s1 : Int) (t dur : Nat) : Int := if dur ≤ t then s1 else s0 + Int.tdiv ((s1 - s0) * t) dur

/-- A control sample boundary of a running step (R178, R203, R205): the snapshot, the ramp's setpoint, and the causes that
end the step here. -/
def controlBoundary (d : Dev) (c : Chan) : Dev :=
  let snap := takeSnapshot d c
  let d := slotEvents (modMach d c fun m => { m with snap := snap }) c snap
  match (ch d c).mach.step with
  | none => d
  | some s =>
    if !s.started then
      modMach d c fun m => { m with step := m.step.map fun s => if s.asked < d.tb.mono then { s with settled := true } else s }
    else
    let t := stepT d c
    let d := match s.kind with
      | .ramp _ s1 dur => modMach d c fun m => { m with step := m.step.map fun s => { s with setpoint := rampAt s.s0 s1 t dur } }
      | _ => d
    let d := if (ch d c).mach.abortReq then offerEnd d c 0x08 0 else d
    let d := (untilCauses d c s).foldl (fun d x => offerEnd d c x.1 x.2) d
    let d := if s.setup.time ≠ 0 ∧ s.setup.time ≤ t then offerEnd d c 0x02 0 else d
    let d := if s.setup.charge ≠ 0 ∧ s.setup.charge ≤ (stepQ d c).natAbs then offerEnd d c 0x03 0 else d
    match s.kind with
    | .ramp _ _ dur => if dur ≤ t then offerEnd d c 0x01 0 else d
    | k =>
      let e := eisBoundary d c s
      if e.1 ∧ k ≠ .rest then offerEnd e.2 c 0x01 0 else e.2

/-- The step whose end a boundary has decided ends (R190); a step instruction that waited for it then requests its own. -/
def finishStep (d : Dev) (c : Chan) : Dev :=
  match (ch d c).mach.step with
  | none => d
  | some s =>
    match s.ending with
    | none => d
    | some (code, detail) =>
      let q := (ch d c).mach.queued
      let d := if code = 4 ∧ detail / 8 % 2 = 1 then modMach d c fun m => clearUntil m s detail else d
      let d := endStep d c code detail
      match q with
      | none => d
      | some k =>
        let d := modMach d c fun m => { m with queued := none }
        if (code = 6 ∧ s.branch.isSome) ∨ (ch d c).mach.st ≠ .run then d else
        let s' := newStep d c k
        modMach d c fun m => { m with st := .step, step := some s' }

end Sys2Proof.Machine
end

