-- ==== Sys2Proof/Machine/Fetch.lean ====
section
/-! DEFINITION. The issue of an Autis instruction: images (R195), the fetch, the order of machine faults (R194), and writing results (R181, R182). -/

namespace Sys2Proof.Machine

open Sys2Proof

/-- The base address of a bank's memory window (R438). -/
def bankMem (b : Bank) : Nat := 0x40000000 + b.val * 0x04000000

/-- A program store word (R198). -/
def progWord (m : Mem) (b : Bank) (i : Nat) : Nat := m.read64 (bankMem b + 8 * (i % 65536))

/-- Whether an image slot is valid, and its base, entry count and body length (R195, BK_IMG). -/
def slotValid (d : Dev) (b : Bank) (s : Nat) : Bool := flag d (.bank b .bk) (BK_IMG_A + 8 * s) 15
/-- The base of an image. -/
def slotBase (d : Dev) (b : Bank) (s : Nat) : Nat := fld d (.bank b .bk) (BK_IMG_A + 8 * s) 31 16
/-- The number of entries of an image. -/
def slotEntries (d : Dev) (b : Bank) (s : Nat) : Nat := fld d (.bank b .bk) (BK_IMG_B + 8 * s) 21 16
/-- The body length of an image. -/
def slotLen (d : Dev) (b : Bank) (s : Nat) : Nat := fld d (.bank b .bk) (BK_IMG_B + 8 * s) 15 0
/-- The words of the whole image. -/
def slotWords (d : Dev) (b : Bank) (s : Nat) : Nat := 16 + slotEntries d b s + slotLen d b s

/-- The body length of the image a machine runs. -/
def bodyLen (d : Dev) (c : Chan) : Nat :=
  match (ch d c).mach.slot with
  | some s => slotLen d c.bank s.val
  | none => 0

/-- The program store index of a body offset of the running image. -/
def bodyIndex (d : Dev) (c : Chan) (pc : Nat) : Nat :=
  match (ch d c).mach.slot with
  | some s => slotBase d c.bank s.val + 16 + slotEntries d c.bank s.val + pc
  | none => pc

/-- What an instruction does in its slot: a machine fault with its cause, or its effect. -/
abbrev Issue := Except Nat Dev

/-! ### Issue slots (R169)

An instruction acts in the machine's next issue slot: time passes to it. -/

/-- Whether the present instant is an issue slot of a machine, and one that it may use: it is not taken, and nothing it waits for lies
ahead (R169). -/
def atSlot (d : Dev) (c : Chan) : Bool :=
  decide ((ch d c).mach.slotFrom ≤ d.tb.mono) && onGrid d (fieldNow d) 1 && decide (extPeriods d (fieldNow d) % 48 = 2 * c.inBank)

/-- The next issue slot of a machine: in rounds of 48 periods, at cycle c of its own (R169). -/
def nextSlot (d : Dev) (c : Chan) : TS :=
  let up := gridUp d (tsAdd (fieldNow d) (((ch d c).mach.slotFrom - d.tb.mono : Nat) : Int)) 1
  tsOfPeriods (up + (48 + 2 * c.inBank - up % 48) % 48)

/-- The device when time has passed to a machine's next issue slot. -/
def toSlot (d : Dev) (c : Chan) : Dev := if atSlot d c then d else fieldAt d (nextSlot d c)

/-- A machine has used its slot, and the slots after it that an instruction of `n` slots takes (R169, R181). -/
def slotTaken (d : Dev) (c : Chan) (n : Nat) : Dev := modMach d c fun m => { m with slotFrom := d.tb.mono + 1 + 7680 * (n - 1) }

/-- The slots an instruction word takes: two for MUL and MULQ (R181). -/
def slotsOf (w : Nat) : Nat := if fOp w = 0x14 ∨ fOp w = 0x15 then 2 else 1

/-- The first modulator sample boundary after now, in elapsed taps. -/
def nextMod (d : Dev) : Nat :=
  let now := fieldNow d
  d.tb.mono + (tsDiff (tsOfPeriods (gridUp d (tsAdd now 1) 64)) now).toNat

/-- The instruction word at the PC of a machine. -/
def pcWord (m : Mem) (d : Dev) (c : Chan) : Nat := progWord m c.bank (bodyIndex d c (ch d c).mach.pc)

/-- Issues the instruction at the PC when it is the one named, in the machine's next slot (R169, R173, R194): a lost word or image is ECC, a
PC outside the body PCRANGE. When the word at the PC is another instruction, the event does not occur. -/
def issue (m : Mem) (d : Dev) (c : Chan) (is_ : Nat → Bool) (f : Dev → Nat → Issue) : Dev :=
  let pc := (ch d c).mach.pc
  let w := pcWord m d c
  let ecc := (ch d c).mach.ecc
  let out := decide (bodyLen d c ≤ pc)
  let lost := (bk d c.bank).seq.eccWords.contains (bodyIndex d c pc % 65536)
  if !canIssue d c || !(ecc || out || is_ w) then d else
  let d := slotTaken (toSlot d c) c (slotsOf w)
  if ecc then machineFault (modMach d c fun m => { m with ecc := false }) c 11
  else if out then machineFault d c 2
  else if lost then machineFault d c 11
  else match f d w with
    | .error cause => machineFault d c cause
    | .ok d => d

/-- Whether a word is the instruction with an OP. -/
def isOp (op : Nat) (w : Nat) : Bool := decide (fOp w = op)

/-- Whether a word is the instruction with an OP and MOD[0]. -/
def isOp0 (op : Nat) (b : Bool) (w : Nat) : Bool := decide (fOp w = op) && (fMod w 0 == b)

/-- Moves the PC past the instruction. -/
def nextPc (d : Dev) (c : Chan) : Dev := modMach d c fun m => { m with pc := m.pc + 1 }

/-- The first cause that applies, in the order given (R194). -/
def firstFault : List (Bool × Nat) → Option Nat
  | [] => none
  | (b, n) :: r => if b then some n else firstFault r

/-- An instruction that faults with the first cause that applies and else has its effect. -/
def guardIssue (l : List (Bool × Nat)) (d : Dev) : Issue :=
  match firstFault l with
  | some n => .error n
  | none => .ok d

/-! ### ALU instructions -/

/-- Source A of an ALU instruction: a register, a pair or a live operand, as a number of the operation's width, and whether
a 64-bit live operand was saturated (R172, R181). -/
def srcA (d : Dev) (c : Chan) (w : Nat) (wide : Bool) : Nat × Bool :=
  let m := (ch d c).mach
  if fMod w 3 then
    match liveOperand d c (fA w) with
    | some x =>
      if wide then (ux 64 x, false)
      else if opWide (fA w) then (ux 32 (satI 32 x), decide (satI 32 x ≠ x))
      else (ux 32 x, false)
    | none => (0, false)
  else if wide then (wPair m (fA w), false) else ((wReg m (fA w)).toNat, false)

/-- Source B of an ALU instruction: IMM[31:0] with I, sign-extended for a pair; else a register or a pair (R181). -/
def srcB (d : Dev) (c : Chan) (w : Nat) (wide : Bool) : Nat :=
  let m := (ch d c).mach
  if fMod w 5 then (if wide then ux 64 (sx 32 (fImm w 31 0)) else fImm w 31 0)
  else if wide then wPair m (fB w) else (wReg m (fB w)).toNat

/-- The faults of an ALU instruction's operand fields: a reserved live operand is ILLEGAL, an odd register for a pair PAIR
(R170, R172). `usesD`, `usesB` say which fields name a register of the operation's width, `pairD` that D names a pair. -/
def aluFaults (w : Nat) (usesB : Bool) (pairD : Bool) : List (Bool × Nat) :=
  let wide := fMod w 4
  [ (fMod w 3 && decide (12 ≤ fA w), 1),
    (pairD && decide (fD w % 2 = 1), 7),
    (wide && !fMod w 3 && decide (fA w % 2 = 1), 7),
    (wide && usesB && !fMod w 5 && decide (fB w % 2 = 1), 7) ]

/-- Writes an ALU result to Wd or pair d and sets the flags (R182). V is also set when a live operand was saturated. -/
def aluPut (d : Dev) (c : Chan) (w : Nat) (store : Bool) (x : Alu) (sat : Bool) : Dev :=
  modMach d c fun m =>
    let m := if store then (if x.width = 64 then setPair m (fD w) x.r else setW m (fD w) (BitVec.ofNat 32 x.r)) else m
    { m with z := aluZ x, n := aluN x, c := x.c.getD m.c, v := (match x.v with | some v => v || sat | none => m.v), pc := m.pc + 1 }

/-- An ALU instruction of one or two sources (R181): operand faults first, then the result of `f` on width and sources. -/
def aluInstr (c : Chan) (usesB store : Bool) (f : Nat → Nat → Nat → Alu) (d : Dev) (w : Nat) : Issue :=
  match firstFault (aluFaults w usesB (store && fMod w 4)) with
  | some n => .error n
  | none =>
    let n := if fMod w 4 then 64 else 32
    let a := srcA d c w (fMod w 4)
    .ok (aluPut d c w store (f n a.1 (srcB d c w (fMod w 4))) a.2)

end Sys2Proof.Machine
end

