-- ==== Sys2Proof/Machine/Control.lean ====
section
/-! DEFINITION. Control-flow and ALU instructions of the Autis machine, and the events that end its waits (R179 to R183). -/

namespace Sys2Proof.Machine

open Sys2Proof

/-- NOP (R179). -/
def doNop (m : Mem) (c : Chan) (d : Dev) : Dev := issue m d c (isOp 0x00) fun d _ => .ok (nextPc d c)

/-- The jump target of JMP and CALL: IMM[15:0], or Wa[15:0] with R (R179). -/
def jumpTarget (d : Dev) (c : Chan) (w : Nat) : Nat :=
  if fMod w 5 then (wReg (ch d c).mach (fA w)).toNat % 65536 else fImm w 15 0

/-- Sets the PC (R174). -/
def goto_ (d : Dev) (c : Chan) (t : Nat) : Dev := modMach d c fun m => { m with pc := t }

/-- JMP (R174, R179). -/
def doJmp (m : Mem) (c : Chan) (d : Dev) : Dev :=
  issue m d c (isOp 0x01) fun d w =>
    let t := jumpTarget d c w
    if bodyLen d c ≤ t then .error 2 else .ok (goto_ d c t)

/-- The successor deadline of R219: 1.2 µs in taps after the tick. -/
def succLag : Nat := 122880

/-- Whether the deadline of a provisional successor has come at an instant (R219). -/
def provDue (now : Nat) (p : Prov) : Bool := decide (p.tick.at_ + succLag ≤ now)

/-- A machine whose provisional successors from `p` on are cancelled, with every item behind them: their samples have no effect, those of a
stream are in the FIFO again, and no setpoint of them enters the loop (R219). A marker of a later one waits for the next item. -/
def cancelFrom (m : Mach) (keep : List Prov) (p : Prov) (r : List Prov) : Mach :=
  { m with playing := none, queue := [], replaced := some p, passed := [], provs := keep,
           fifo := ((p :: r).map fun x => x.used).flatten ++ m.fifo, pidx := p.pidx, playLast := p.last,
           lead := m.lead.filter (fun x => decide (x.1 < p.tick.at_ + playLead)),
           segm := m.segm.or (r.reverse.findSome? fun x => x.mark.map fun k => (k, x.tick.at_)) }

/-- A taken JCC or BEV cancels the oldest successor that is still provisional, with every item behind it (R219). -/
def branchTaken (d : Dev) (c : Chan) : Dev :=
  modMach d c fun m =>
    match m.step, m.provs.dropWhile (provDue d.tb.mono) with
    | some s, p :: r =>
      if s.started && decide (s.startMono ≤ p.tick.at_) then cancelFrom m (m.provs.takeWhile (provDue d.tb.mono)) p r else m
    | _, _ => m

/-- JCC (R175, R178, R179): arithmetic codes on the flags, the others in the latest snapshot. -/
def doJcc (m : Mem) (c : Chan) (d : Dev) : Dev :=
  issue m d c (isOp 0x02) fun d w =>
    let code := condCode w
    let t := fImm w 15 0
    match firstFault [(!condExists code, 1), (decide (bodyLen d c ≤ t), 2)] with
    | some n => .error n
    | none =>
      let k := (ch d c).mach
      let hold := if condArith code then condFlags k code else condSnap k.snap code
      .ok (if hold != fMod w 2 then goto_ (branchTaken d c) c t else nextPc d c)

/-- BEV (R175, R176, R179): pending or level codes only; a pending condition it branches on is cleared. -/
def doBev (m : Mem) (c : Chan) (d : Dev) : Dev :=
  issue m d c (isOp 0x03) fun d w =>
    let code := condCode w
    let t := fImm w 15 0
    match firstFault [(!condExists code || condArith code, 1), (decide (bodyLen d c ≤ t), 2)] with
    | some n => .error n
    | none =>
      let hold := condSnap (ch d c).mach.snap code
      .ok (if hold != fMod w 2 then
          goto_ (branchTaken (if hold then modMach d c fun m => clearCond m code else d) c) c t
        else nextPc d c)

/-- CALL (R179). -/
def doCall (m : Mem) (c : Chan) (d : Dev) : Dev :=
  issue m d c (isOp 0x04) fun d w =>
    let t := jumpTarget d c w
    match firstFault [(decide (bodyLen d c ≤ t), 2), (decide (8 ≤ (ch d c).mach.calls.length), 3)] with
    | some n => .error n
    | none => .ok (modMach d c fun m => { m with calls := (m.pc + 1) :: m.calls, pc := t })

/-- RET (R179). -/
def doRet (m : Mem) (c : Chan) (d : Dev) : Dev :=
  issue m d c (isOp 0x05) fun d _ =>
    match (ch d c).mach.calls with
    | [] => .error 4
    | a :: r => .ok (modMach d c fun m => { m with calls := r, pc := a })

/-- LOOP (R179): a count of 0 jumps to the exit target and pushes nothing. -/
def doLoop (m : Mem) (c : Chan) (d : Dev) : Dev :=
  issue m d c (isOp 0x06) fun d w =>
    let k := (ch d c).mach
    let n := if fMod w 5 then (wReg k (fA w)).toNat else fImm w 39 16
    let t := fImm w 15 0
    match firstFault [(decide (bodyLen d c ≤ t), 2), (decide (n ≠ 0 ∧ 4 ≤ k.loops.length), 5)] with
    | some e => .error e
    | none => .ok (if n = 0 then goto_ d c t else modMach d c fun m => { m with loops := (m.pc + 1, n) :: m.loops, pc := m.pc + 1 })

/-- ENDL (R179). -/
def doEndl (m : Mem) (c : Chan) (d : Dev) : Dev :=
  issue m d c (isOp 0x07) fun d _ =>
    match (ch d c).mach.loops with
    | [] => .error 6
    | (a, n) :: r =>
      .ok (modMach d c fun m =>
        if n - 1 = 0 then { m with loops := r, pc := m.pc + 1 } else { m with loops := (a, n - 1) :: r, pc := a })

/-- The machine waits, with C as given (R179). -/
def waitWith (d : Dev) (c : Chan) (wt : Wait) (cf : Bool) : Dev :=
  modMach d c fun m => { m with st := .wait, wait := wt, c := cf, pc := m.pc + 1 }

/-- WAITL and WAITT wait for the first modulator sample boundary at or after the instant of their target (R179): C = 1 when the target has
passed at issue; then a wait is left only where that boundary still lies ahead. -/
def waitFor (d : Dev) (c : Chan) (wt : Wait) (passed : Bool) (target : TS) : Dev :=
  let ago := tsDiff (fieldNow d) target
  if passed && (decide (10240 ≤ ago) || decide (tsDiff (tsOfPeriods (gridUp d target 64)) (fieldNow d) ≤ 0)) then
    nextPc (modMach d c fun m => { m with c := true }) c
  else waitWith d c wt passed

/-- WAITL (R179). -/
def doWaitl (m : Mem) (c : Chan) (d : Dev) : Dev :=
  issue m d c (isOp 0x08) fun d w =>
    let rel := fMod w 0
    if !rel && decide (fA w % 2 = 1) then .error 7 else
    let now := ltOf d (fieldNow d)
    let lt := if rel then ((now / 65536 + fImm w 39 16) * 65536 + fImm w 15 0) % 2 ^ 64 else wPair (ch d c).mach (fA w)
    .ok (waitFor d c (.untilLt lt) (decide (lt < now)) (tsOfTaps (ltInstant d lt)))

/-- WAITT (R179): an invalid target TS is OPERAND. -/
def doWaitt (m : Mem) (c : Chan) (d : Dev) : Dev :=
  issue m d c (isOp 0x09) fun d w =>
    let rel := fMod w 0
    if !rel && decide (fA w % 2 = 1) then .error 7 else
    let now := fieldNow d
    let t : TS := if rel then tsAdd now ((fImm w 39 0 * tapsPerUs : Nat) : Int) else BitVec.ofNat 64 (wPair (ch d c).mach (fA w))
    if !tsValid t then .error 10 else
    .ok (waitFor d c (.untilTime t.toNat) (decide (tsDiff t now < 0)) t)

/-- A wait ends at the first modulator sample boundary at or after its target (R169, R179). -/
def doWaitTarget (c : Chan) (d : Dev) : Dev :=
  let now := fieldNow d
  let k := (ch d c).mach
  let hit := match k.wait with
    | .untilTime t => decide (0 ≤ tsDiff now (BitVec.ofNat 64 t))
    | .untilLt lt => decide (0 ≤ tsDiff now (tsOfTaps (ltInstant d lt)))
    | _ => false
  if onGrid d now 64 && decide (k.st = .wait) && hit then modMach d c resumed else d

/-- Whether a machine is in a state that fails a barrier (R180); one whose START has been accepted does not count as stopped (R199). -/
def syncDead (d : Dev) (c : Chan) : Bool :=
  let m := (ch d c).mach
  isFollower d c || decide (m.st = .fault) || (decide (m.st ∈ [.idle, .halt, .safehalt]) && m.startReq.isNone)

/-- The machines a SYNCG mask names. -/
def maskChans (b : Bank) (mask : Nat) : List Chan :=
  ((List.range 24).filter fun n => decide (mask / 2 ^ n % 2 = 1)).map fun n => b.chan n

/-- Whether a machine waits at a SYNCG with a mask (R180). -/
def syncWaits (d : Dev) (c : Chan) (mask : Nat) : Bool :=
  match (ch d c).mach.wait with
  | .sync k _ => decide ((ch d c).mach.st = .wait) && decide (k = mask)
  | _ => false

/-- The machines of a barrier that wait leave it with V as given (R180). -/
def syncLeave (d : Dev) (b : Bank) (mask : Nat) (v : Bool) : Dev :=
  forEach ((maskChans b mask).filter fun c => syncWaits d c mask) d fun d c =>
    modMach d c fun m => { resumed m with v := v }

/-- SYNCG (R180): its own bit is always in the mask; it fails at once when a named machine is stopped. -/
def doSyncg (m : Mem) (c : Chan) (d : Dev) : Dev :=
  issue m d c (isOp 0x0A) fun d w =>
    let own := 2 ^ c.inBank
    let mask := fImm w 23 0 ||| own
    let tmo := fImm w 31 24
    let d := modMach d c fun m =>
      { m with st := .wait, pc := m.pc + 1,
               wait := .sync mask (if tmo = 0 then none else some (d.tb.mono + tmo * 100000 * tapsPerUs)) }
    .ok (if (maskChans c.bank mask).any fun x => syncDead d x then syncLeave d c.bank mask true else d)

/-- The barrier releases at the first modulator sample boundary after every named machine waits at it (R180); it fails when a named
machine has stopped. -/
def doSyncRelease (c : Chan) (d : Dev) : Dev :=
  match (ch d c).mach.wait with
  | .sync mask _ =>
    if (maskChans c.bank mask).any fun x => syncDead d x then syncLeave d c.bank mask true
    else if onGrid d (fieldNow d) 64
        && (maskChans c.bank mask).all fun x => syncWaits d x mask && decide ((ch d x).mach.slotFrom ≤ d.tb.mono) then
      syncLeave d c.bank mask false
    else d
  | _ => d

/-- The timeout of a waiting machine runs out: it and the others leave with V = 1 (R180). -/
def doSyncTimeout (c : Chan) (d : Dev) : Dev :=
  match (ch d c).mach.wait with
  | .sync mask (some dl) => if dl ≤ d.tb.mono then syncLeave d c.bank mask true else d
  | _ => d

/-- HALT (R179): the channel stays in OPEN. -/
def doHalt (m : Mem) (c : Chan) (d : Dev) : Dev :=
  issue m d c (isOp 0x0B) fun d w =>
    let d := raEvent (modMach (ledgerStop d c) c fun m => { m with st := .halt, pc := m.pc + 1 }) (chBlk c) CH_ASTS 0x8
    .ok (setFld d (chBlk c) CH_APC 31 16 (fImm w 15 0))

/-- MOV (R181, R182): V is 1 when a live operand was saturated, else 0. -/
def doMov (m : Mem) (c : Chan) (d : Dev) : Dev :=
  issue m d c (isOp 0x10) (aluInstr c false true fun n a _ => aluMov n a (some false))

/-- LDI (R181): C and V unchanged. -/
def doLdi (m : Mem) (c : Chan) (d : Dev) : Dev :=
  issue m d c (isOp 0x11) fun d w =>
    if fMod w 4 && decide (fD w % 2 = 1) then .error 7
    else .ok (aluPut d c w true
      (if fMod w 4 then aluMov 64 (ux 64 (fImmS w)) none else aluMov 32 (fImm w 31 0) none) false)

/-- ADD. -/
def doAdd (m : Mem) (c : Chan) (d : Dev) : Dev := issue m d c (isOp 0x12) (aluInstr c true true aluAdd)

/-- SUB. -/
def doSub (m : Mem) (c : Chan) (d : Dev) : Dev := issue m d c (isOp 0x13) (aluInstr c true true aluSub)

/-- MUL (R181): with WIDE and 32-bit sources the result is a 64-bit product in pair d, and V is 0. -/
def doMul (m : Mem) (c : Chan) (d : Dev) : Dev :=
  issue m d c (isOp 0x14) fun d w =>
    let wide := fMod w 4
    let pairRes := wide || fMod w 0
    match firstFault (aluFaults w true pairRes) with
    | some n => .error n
    | none =>
      let n := if wide then 64 else 32
      let a := srcA d c w wide
      .ok (aluPut d c w true (aluMul n (if pairRes then 64 else 32) a.1 (srcB d c w wide)) a.2)

/-- MULQ (R183): source B is one register or IMM[31:0], whatever D holds. -/
def doMulq (m : Mem) (c : Chan) (d : Dev) : Dev :=
  issue m d c (isOp 0x15) fun d w =>
    let wide := fMod w 4
    match firstFault (aluFaults w false wide) with
    | some n => .error n
    | none =>
      let a := srcA d c w wide
      .ok (aluPut d c w true (aluMulq (if wide then 64 else 32) (fImm w 36 32) a.1 (srcB d c w false)) a.2)

/-- CMP: flags of A minus B; nothing is stored. -/
def doCmp (m : Mem) (c : Chan) (d : Dev) : Dev := issue m d c (isOp 0x16) (aluInstr c true false aluSub)

/-- MIN. -/
def doMin (m : Mem) (c : Chan) (d : Dev) : Dev := issue m d c (isOp 0x17) (aluInstr c true true aluMin)

/-- MAX. -/
def doMax (m : Mem) (c : Chan) (d : Dev) : Dev := issue m d c (isOp 0x18) (aluInstr c true true aluMax)

/-- ABS. -/
def doAbs (m : Mem) (c : Chan) (d : Dev) : Dev := issue m d c (isOp 0x19) (aluInstr c false true fun n a _ => aluAbs n a)

/-- AND. -/
def doAnd (m : Mem) (c : Chan) (d : Dev) : Dev := issue m d c (isOp 0x1A) (aluInstr c true true aluAnd)

/-- OR. -/
def doOr (m : Mem) (c : Chan) (d : Dev) : Dev := issue m d c (isOp 0x1B) (aluInstr c true true aluOr)

/-- XOR. -/
def doXor (m : Mem) (c : Chan) (d : Dev) : Dev := issue m d c (isOp 0x1C) (aluInstr c true true aluXor)

/-- A shift (R181): the count comes from B[5:0] of one register, or IMM[5:0]. -/
def shiftInstr (c : Chan) (f : Nat → Nat → Nat → Nat → Alu) (d : Dev) (w : Nat) : Issue :=
  match firstFault (aluFaults w false (fMod w 4)) with
  | some n => .error n
  | none =>
    let wide := fMod w 4
    let k := (if fMod w 5 then fImm w 5 0 else (wReg (ch d c).mach (fB w)).toNat % 64)
    let a := srcA d c w wide
    .ok (aluPut d c w true (f w (if wide then 64 else 32) a.1 k) a.2)

/-- SHL. -/
def doShl (m : Mem) (c : Chan) (d : Dev) : Dev := issue m d c (isOp 0x1D) (shiftInstr c fun _ n a k => aluShl n a k)

/-- SHR, arithmetic with ARITH. -/
def doShr (m : Mem) (c : Chan) (d : Dev) : Dev := issue m d c (isOp 0x1E) (shiftInstr c fun w n a k => aluShr n a k (fMod w 0))

/-- Whether an OP is reserved (R173). -/
def opReserved (w : Nat) : Bool :=
  let o := fOp w
  decide (0x0C ≤ o ∧ o ≤ 0x0F) || decide (o = 0x1F) || decide (0x27 ≤ o ∧ o ≤ 0x2F) || decide (0x33 ≤ o ∧ o ≤ 0x37)

/-- A word with a reserved OP is a machine fault with cause ILLEGAL (R173). -/
def doReservedOp (m : Mem) (c : Chan) (d : Dev) : Dev := issue m d c opReserved fun _ _ => .error 1

end Sys2Proof.Machine
end

