-- ==== Sys2Proof/Machine/StepInstr.lean ====
section
/-! DEFINITION. The force and step instructions, LIMIT, UNTIL and LEDGER, MEAS, SNAP, SIG, POST and FAULT, and the events that start, check and end steps (R184 to R189, R202 to R205, R221). -/

namespace Sys2Proof.Machine

open Sys2Proof

/-- The value of a 32-bit operand: IMM[31:0], or register A with R (R184). -/
def val32 (d : Dev) (c : Chan) (w : Nat) : Word := if fMod w 5 then wReg (ch d c).mach (fA w) else BitVec.ofNat 32 (fImm w 31 0)

/-- A step instruction: faults of its own, then those of a step that drives, then the request (R186, R194). -/
def stepIssue (d : Dev) (c : Chan) (faults : List (Bool × Nat)) (k : StepKind) : Issue :=
  let df := driveFault d c k
  match firstFault (faults.filter (fun f => f.2 < 9) ++ [(decide (df = some 9), 9)]
      ++ faults.filter (fun f => 9 ≤ f.2) ++ [(decide (df = some 10), 10)]) with
  | some n => .error n
  | none => .ok (requestStep d c k)

/-- FORCE (R184): modes 5 to 7 are ILLEGAL, a CR setpoint of 0 or below OPERAND. -/
def doForce (m : Mem) (c : Chan) (d : Dev) : Dev :=
  issue m d c (isOp 0x20) fun d w =>
    let md := fMods w 2 0
    let sp := (val32 d c w).toInt
    stepIssue d c [(decide (5 ≤ md), 1), (decide (md = 3 ∧ sp ≤ 0), 10)] (.force md sp)

/-- RAMP (R184, R203): modes 3 to 7 are ILLEGAL, a duration of 0 OPERAND. The duration is unsigned. -/
def doRamp (m : Mem) (c : Chan) (d : Dev) : Dev :=
  issue m d c (isOp 0x21) fun d w =>
    let md := fMods w 2 0
    let dur := (wReg (ch d c).mach (fB w)).toNat
    stepIssue d c [(decide (3 ≤ md), 1), (decide (dur = 0), 10)] (.ramp md (val32 d c w).toInt dur)

/-- HOLD (R184, R204). -/
def doHold (m : Mem) (c : Chan) (d : Dev) : Dev := issue m d c (isOp 0x22) fun d _ => stepIssue d c [] .hold

/-- REST (R184, R204). -/
def doRest (m : Mem) (c : Chan) (d : Dev) : Dev := issue m d c (isOp 0x23) fun d _ => stepIssue d c [] .rest

/-- The device with a channel's set-up changed and the PC past the instruction. -/
def putSetup (d : Dev) (c : Chan) (f : Setup → Setup) : Dev := modMach d c fun m => { m with setup := f m.setup, pc := m.pc + 1 }

/-- LIMIT (R184): one limit of the set-up. TIME and CHARGE take a pair with R, which must lie in 0 to 2^40 - 1. -/
def doLimit (m : Mem) (c : Chan) (d : Dev) : Dev :=
  issue m d c (isOp 0x24) fun d w =>
    let sel := fMods w 3 0
    let v := val32 d c w
    let long : Int := if fMod w 5 then sx 64 (wPair (ch d c).mach (fA w)) else (fImm w 39 0 : Nat)
    match firstFault [(decide (6 ≤ sel), 1), (decide (4 ≤ sel ∧ fMod w 5 = true ∧ fA w % 2 = 1), 7),
        (decide (4 ≤ sel ∧ (long < 0 ∨ (2 ^ 40 : Nat) ≤ long)), 10)] with
    | some n => .error n
    | none => .ok (putSetup d c fun s =>
        match sel with
        | 0 => { s with vmin := some v.toInt }
        | 1 => { s with vmax := some v.toInt }
        | 2 => { s with ilim := some v.toNat }
        | 3 => { s with plim := some v.toNat }
        | 4 => { s with time := long.toNat }
        | _ => { s with charge := long.toNat })

/-- The threshold of a level-form UNTIL (R185): pair A for an operand of 64 bits, register A for the others, or IMM. LT, TS and
STEPT are unsigned. -/
def untilThr (d : Dev) (c : Chan) (w : Nat) : Int :=
  let op := fD w
  let mc := (ch d c).mach
  if !fMod w 4 then fImmS w
  else if opWide op then (if op ∈ [6, 8, 9] then (wPair mc (fA w) : Int) else sx 64 (wPair mc (fA w)))
  else (wReg mc (fA w)).toInt

/-- UNTIL (R185): one end condition of the set-up, eight at most. -/
def doUntil (m : Mem) (c : Chan) (d : Dev) : Dev :=
  issue m d c (isOp 0x25) fun d w =>
    let form := fMod w 5
    let code := condCode w
    match firstFault [
        (!form && (!condExists code || condArith code), 1), (form && (decide (12 ≤ fD w) || decide (4 ≤ fB w)), 1),
        (form && fMod w 4 && opWide (fD w) && decide (fA w % 2 = 1), 7),
        (decide (8 ≤ (ch d c).mach.setup.untils.length), 8)] with
    | some n => .error n
    | none =>
      let u := if form then UntilCond.level (fD w) (fB w) (fMod w 3) (untilThr d c w) else UntilCond.event code (fMod w 2)
      .ok (putSetup d c fun s => { s with untils := s.untils ++ [u] })

/-- LEDGER (R184): the declared power of the next step and its deferral limit. -/
def doLedger (m : Mem) (c : Chan) (d : Dev) : Dev :=
  issue m d c (isOp 0x26) fun d w =>
    .ok (putSetup d c fun s => { s with decl := some (val32 d c w).toInt, defLim := fImm w 39 32 })

/-- MEAS (R188): the integration starts at the first line-cycle boundary after issue. -/
def doMeas (m : Mem) (c : Chan) (d : Dev) : Dev :=
  issue m d c (isOp 0x38) fun d w =>
    let q := fMods w 2 0
    match firstFault [(decide (4 ≤ q), 1), (decide (fD w % 2 = 1), 7)] with
    | some n => .error n
    | none =>
      let n := min 100 (max 1 (fImm w 6 0))
      .ok (modMeas (modMach d c fun m => { m with st := .wait, wait := .meas (fD w) q n, pc := m.pc + 1 }) c fun m =>
        { m with lineInt := none, lineRes := none })

/-- The result of a MEAS is written and the machine resumes (R188): V = 1 when the interval carries IRREG, SYNTHLINE, OVR_V,
OVR_I or WARMUP; a Q or E carries OVR_I from an overrange until the next clear (R117). -/
def doMeasDone (c : Chan) (d : Dev) : Dev :=
  match (ch d c).mach.wait, (ch d c).meas.lineRes with
  | .meas dst q _, some r =>
    let ovr := r.fl / 0x100 % 2 = 1 ∨ (2 ≤ q ∧ (ch d c).meas.ovrI)
    let fl := r.fl / 0x10 % 2 = 1 ∨ r.fl / 0x20 % 2 = 1 ∨ r.fl / 0x80 % 2 = 1 ∨ ovr ∨ r.fl % 2 = 1
    let done := fun (m : Mach) (x : Int) =>
      { resumed m with z := decide (x = 0), n := decide (x < 0), v := decide fl }
    let d := modMeas d c fun m => { m with lineRes := none }
    if 2 ≤ q then
      let x := if noShunt d c then 0 else if q = 2 then r.dq / 100000 else r.de / 400000000000000
      modMach d c fun m => done (setPair m dst (ux 64 x)) x
    else
      let mean := meanUnits d (if q = 0 then r.sv else r.si) r.n
      let x := if q = 1 && noShunt d c then 0 else mean.1
      let unknown := decide (r.n = 0) || (q = 1 && noShunt d c) || decide (r.fl / 0x100 % 2 = 1 ∧ q = 1) || decide (r.fl / 0x80 % 2 = 1 ∧ q = 0)
      let s : UncIn := { noise := .over r.n, smp := r.n, fast := r.nf, warm := decide (r.fl % 2 = 1) }
      let s := withRes mean.2 r.fl s
      let u := uncUnits s.2 c false (if q = 0 then .v else .i) x s.1
      let uw : Nat := if unknown then 0x7FFFFFFF else min 0x7FFFFFFF u.1
      modMach u.2 c fun m => done (setW (setW m dst (satWord x)) (dst + 1) (BitVec.ofNat 32 uw)) x
  | _, _ => d

/-- SNAP (R188): both words from the first settled filtered output after issue. -/
def doSnap (m : Mem) (c : Chan) (d : Dev) : Dev :=
  issue m d c (isOp 0x39) fun d w =>
    if fD w % 2 = 1 then .error 7
    else .ok (modMach d c fun m => { m with st := .wait, wait := .snap (fD w), pc := m.pc + 1, snapOut := none })

/-- The first settled output after a SNAP is written (R188). -/
def doSnapDone (c : Chan) (d : Dev) : Dev :=
  match (ch d c).mach.wait, (ch d c).mach.snapOut with
  | .snap dst, some (v, i) =>
    modMach d c fun m => { resumed (setW (setW m dst v) (dst + 1) i) with snapOut := none }
  | _, _ => d

/-- SIG (R188, R221): emitted at the next control sample boundary, or at the next item start. -/
def doSig (m : Mem) (c : Chan) (d : Dev) : Dev :=
  issue m d c (isOp 0x3D) fun d w =>
    let t := fImm w 3 0
    if 10 ≤ t then .error 1 else
    let r : SigReq := { target := t, group := fImm w 15 8, action := fMods w 1 0 }
    .ok (modMach d c fun m =>
      if r.action = 1 then { m with sigItem := m.sigItem ++ [r], pc := m.pc + 1 } else { m with sigs := m.sigs ++ [r], pc := m.pc + 1 })

/-- Emits one output of a SIG at this instant (R221): a pulse of 400 ns on a group line, of 100 ns on TRIG_OUT after 2 µs, or a
TRIG message; a level set high or low. -/
def emitSig (d : Dev) (c : Chan) (r : SigReq) : Dev :=
  let same := fun (h : SigReq) => decide (h.target = r.target) && (decide (r.target ≠ 9) || decide (h.group = r.group))
  if r.action ≤ 1 then
    if r.target < 8 then gtPulses [r.target] d
    else if r.target = 8 then trigOutPulse d (d.tb.mono + trigOutLag) 10240
    else sendTrig d 2 r.group (fieldNow d) c.val
  else
    let d := gtMove (if r.target < 8 then [r.target] else []) (fun d => modMach d c fun m =>
      { m with holds := (m.holds.filter fun h => !same h) ++ (if r.action = 2 then [r] else []) }) d
    let d := if r.target ≠ 8 then d else if r.action = 2 then trigOutHold d c else trigOutRelease d c
    if r.target = 9 then sendTrig d (if r.action = 2 then 3 else 4) r.group (fieldNow d) c.val else d

/-- POST (R188): its record is made at the first modulator sample boundary after issue, with the samples taken by then. -/
def doPost (m : Mem) (c : Chan) (d : Dev) : Dev :=
  issue m d c (isOp0 0x3E false) fun d _ => .ok (nextPc (modMeas d c fun k => { k with posts := k.posts ++ [d.tb.mono] }) c)

/-- FAULT (R188): a machine fault with cause USER, and the user code in CH_APC.HCODE. -/
def doFaultInstr (m : Mem) (c : Chan) (d : Dev) : Dev :=
  issue m d c (isOp 0x3F) fun d w => .ok (machineFault (setFld d (chBlk c) CH_APC 31 16 (fImm w 15 0)) c 12)

/-! ### Boundaries -/

/-- Whether an instant is one of the channel's loop update instants (R89, R90). -/
def isUpdate (d : Dev) (c : Chan) (t : TS) : Bool :=
  let rate := min 6 (fld d (chBlk (leadOf d c)) CH_LOOPCFG 2 0)
  decide (t.toNat % 256 = 0) && decide (extPeriods d t % (256 * 2 ^ rate) = 10 * c.inBank)

/-- The periods between ticks of a bank's CK_TICK with a divider; in L3 at least 1 s (R291, R292). -/
def tickPeriods (d : Dev) (b : Bank) (div : Nat) : Nat :=
  let n := 10000 * max 1 div
  if pstate d b = 3 then max n 640000000 else n

/-- The divider in force at an instant in periods: a written one from the next tick of the old period on (R292). -/
def divAt (d : Dev) (b : Bank) (e : Nat) : Nat :=
  match (bk d b).cmp.next with
  | some (p, n) => if p ≤ e then n else (bk d b).cmp.div
  | none => (bk d b).cmp.div

/-- Whether an instant is a tick of a bank's CK_TICK; the one at which a written divider takes effect still is (R292). -/
def isTick (d : Dev) (b : Bank) (t : TS) : Bool :=
  onGrid d t (tickPeriods d b (divAt d b (extPeriods d t)))
    || (decide (t.toNat % 256 = 0) && (bk d b).cmp.next.any fun x => decide (x.1 = extPeriods d t))

/-- A divider is written: it takes effect at the next tick of the period in force (R292). -/
def tickWrite (d : Dev) (b : Bank) (n : Nat) : Dev :=
  let e := extPeriods d (fieldNow d)
  let div := divAt d b e
  let per := tickPeriods d b div
  modBk d b fun k => { k with cmp := { k.cmp with div := div, next := some ((e / per + 1) * per, n) } }

/-- Whether a PLAY or STREAM step runs (R177). -/
def inWave (d : Dev) (c : Chan) : Bool :=
  match (ch d c).mach.step with | some s => s.started && decide (s.kind = .wave) | none => false

/-- Whether the instant is a control sample boundary of the channel (R177): a loop update instant; a sample instant of the
playing item while a PLAY or STREAM step runs; a tick of CK_TICK in L2 and L3. -/
def ctlBoundary (d : Dev) (c : Chan) : Bool :=
  if inWave d c then decide ((ch d c).mach.tickAt = some d.tb.mono)
  else if 2 ≤ pstate d c.bank then
    isTick d c.bank (fieldNow d)
  else isUpdate d c (fieldNow d)

/-- A step that is requested starts at a control sample boundary once the ledger admits it (R189, R270). A PLAY or STREAM
starts at a tick instead (R212). -/
def doStepStart (c : Chan) (d : Dev) : Dev :=
  match (ch d c).mach.step with
  | some s =>
    if s.started || decide (s.kind = .wave) || decide (d.tb.mono ≤ s.asked) || !ctlBoundary d c then d else
    let a := ledgerAdmit d c 0
    if a.1 then startStep a.2 c else a.2
  | none => d

/-- A control sample boundary of the channel. -/
def doControl (c : Chan) (d : Dev) : Dev := if ctlBoundary d c then controlBoundary d c else d

/-- The outputs that are due are emitted: those for a control sample boundary, and those for an item that starts now (R221). -/
def doSigEmit (c : Chan) (d : Dev) : Dev :=
  let m := (ch d c).mach
  let b := ctlBoundary d c
  let due := (if b then m.sigs else []) ++ (if m.itemAt = some d.tb.mono then m.sigItem else [])
  let d := modMach d c fun m =>
    { m with sigs := if b then [] else m.sigs, sigItem := if m.itemAt = some d.tb.mono then [] else m.sigItem }
  forEach due d fun d r => emitSig d c r

/-- The step that a boundary has decided to end ends there (R190, R192). -/
def doStepEnd (c : Chan) (d : Dev) : Dev := if ctlBoundary d c then finishStep d c else d

end Sys2Proof.Machine
end

