-- ==== Sys2Proof/Machine/Waves.lean ====
section
/-! DEFINITION. Waveform-follow steps: segments, timers, the play queue, the stream FIFO, successors and markers (R187, R207 to R222). -/

namespace Sys2Proof.Machine

open Sys2Proof

/-! ### Segments and timers -/

/-- Word `k` of the waveform store of a bank (R207, R438). -/
def waveWord (m : Mem) (b : Bank) (k : Nat) : Nat :=
  let a := bankMem b + 0x1000000 + 2 * k
  (m.read a).toNat + 0x100 * (m.read (a + 1)).toNat

/-- Register of bank timer `t` (R211). -/
def timerReg (d : Dev) (b : Bank) (t : Nat) : Word := rd d (.bank b .bk) (BK_WTMR + 4 * t)

/-- The play item of a segment, played `reps` times; none when the segment is absent (R207, R208). -/
def segItem (m : Mem) (d : Dev) (b : Bank) (s reps : Nat) : Option PlayItem :=
  let w := fun k => waveWord m b (8 * s + k)
  let nseg := fld d (.bank b .bk) BK_WDIR 12 0
  let start := w 0 + 0x10000 * (w 1 % 16)
  let len := w 2 + 0x10000 * (w 3 % 16) + 1
  let qty := w 1 / 0x400 % 4
  if nseg ≤ s ∨ start < 8 * nseg ∨ 524288 < start + len ∨ qty = 3 ∨ (bk d b).seq.badSegs.contains s then none
  else some { stream := false, seg := s, timer := w 1 / 0x1000, qty := qty, start := start, len := len,
              scale := sx 32 (w 4 + 0x10000 * w 5), ofs := sx 32 (w 6 + 0x10000 * w 7), reps := reps, abort := false, done := 0 }

/-- The samples an item plays in all; 0 for an unbounded stream (R187, R213). -/
def itemTotal (i : PlayItem) : Nat := i.len * i.reps

/-- Whether an item has played all its samples. -/
def itemOver (i : PlayItem) : Bool := decide (itemTotal i ≠ 0) && decide (itemTotal i ≤ i.done)

/-- The setpoint of a sample code (R209). -/
def codeSetpoint (x scale ofs : Int) : Int := satI 32 (ofs + (x * scale + 16384) / 32768)

/-- The number M of ticks per cycle, or DIV, of a timer: 0 counts as 1. -/
def timerDiv (r : Word) : Nat := max 1 (if bit r 30 then min 4096 (bits r 12 0) else bits r 23 0)

/-- Whether a bank timer ticks at the present instant (R211). -/
def timerTicks (d : Dev) (b : Bank) (t : Nat) : Bool :=
  let r := timerReg d b t
  let n := timerDiv r
  let now := fieldNow d
  if bit r 30 then
    let lt := ltOf d now
    let j := (lt % 65536 * n + 65535) / 65536
    decide (j * 65536 / n = lt % 65536) && decide (tsDiff now (tsOfTaps (ltInstant d lt)) = 0)
  else onGrid d now (256 * n)

/-- The ticks of a timer that lie after one instant, up to and including another, in taps after the first (R211). At most
three are asked for: a successor deadline is three shortest periods long. -/
def ticksAfter (d : Dev) (b : Bank) (t : Nat) (from_ to_ : TS) : List Int :=
  let r := timerReg d b t
  let n := timerDiv r
  if bit r 30 then
    let lt := ltOf d from_
    let j := (lt % 65536 + 1) * n / 65536 + (if (lt % 65536 + 1) * n % 65536 = 0 then 0 else 1)
    ((List.range 3).map fun i =>
        let k := j + i
        tsDiff (tsOfTaps (ltInstant d ((lt / 65536 + k / n) * 65536 + k % n * 65536 / n))) from_).filter
      fun x => decide (0 < x) && decide (x ≤ tsDiff to_ from_)
  else
    let g := gridUp d (tsAdd from_ 1) (256 * n)
    ((List.range 3).map fun i => tsDiff (tsOfPeriods (g + i * 256 * n)) from_).filter fun x => decide (x ≤ tsDiff to_ from_)

/-! ### Playing samples -/

/-- A sample word as it stood before an instant in elapsed taps: a write of that instant or later is not used (R210). -/
def waveWordAt (m : Mem) (d : Dev) (b : Bank) (k at_ : Nat) : Nat :=
  match (bk d b).seq.waveLog.find? fun x => decide (x.1 = k) && decide (at_ ≤ x.2.2) with
  | some x => x.2.1
  | none => waveWord m b k

/-- A 32-bit write to the waveform store replaces two words: what they were is kept while a sample of the past can still be read (R210). -/
def waveNote (m : Mem) (d : Dev) (b : Bank) (k : Nat) : Dev :=
  let now := d.tb.mono
  modSeq d b fun q => { q with waveLog :=
    (q.waveLog.filter fun x => decide (now ≤ x.2.2 + playLead)) ++ [(k, waveWord m b k, now), (k + 1, waveWord m b (k + 1), now)] }

/-- A tick at the present instant. -/
def tickNow (d : Dev) (c : Chan) : Tick := { at_ := d.tb.mono, ts := fieldNow d, meas := (members d c).map fun x => measAt d (ch d x) }

/-- A tick of the past: the one that is kept, or, where none is, the present measurement under its instant. -/
def tickOf (d : Dev) (c : Chan) (at_ : Nat) : Tick :=
  ((ch d c).mach.passed.find? fun t => decide (t.at_ = at_)).getD
    { tickNow d c with at_ := at_, ts := tsAdd (fieldNow d) ((at_ : Int) - d.tb.mono) }

/-- The last element of a list changed. -/
def onLast {α : Type} (f : α → α) : List α → List α
  | [] => []
  | [x] => [f x]
  | x :: l => x :: onLast f l

/-- A setpoint that enters the loop 1.6 µs after its sample's instant (R212); `at_` is that instant in elapsed taps. -/
def leadPush (d : Dev) (c : Chan) (at_ : Nat) (x : Int) : Dev :=
  modMach d c fun m => { m with playLast := x, lead := m.lead ++ [(at_ + playLead, x)] }

/-- What an underrun makes known (R217). -/
def underrunNote (d : Dev) (c : Chan) (abort : Bool) : Dev :=
  let d := raEvent (pendSet d c fun m => { m with und := true }) (chBlk c) CH_SSTS 0x1
  if abort then d else bump d (chBlk c) CH_SSKIP

/-- An underrun of the stream at the index p (R217): HOLD goes on with the last setpoint, ABORT asks for the end of the step at this tick. That
of a provisional item has its effect when the item stands (R219). -/
def underrun (d : Dev) (c : Chan) (i : PlayItem) (at_ : Nat) : Dev :=
  let prov := decide ((ch d c).mach.provs ≠ [])
  let tk := tickOf d c at_
  let d := if !prov then underrunNote d c i.abort else
    modMach d c fun m => { m with provs := onLast (fun p => { p with miss := p.miss + 1, abort := if i.abort then some tk else none }) m.provs }
  if !i.abort then leadPush (modMach d c fun m => { m with pidx := m.pidx + 1 }) c at_ (ch d c).mach.playLast
  else if prov then modMach d c fun m => { m with playing := none }
  else offerEnd (modMach d c fun m => { m with playing := none, queue := [] }) c 0x07 0

/-- The next sample of the playing item plays (R209, R210, R217). -/
def playSample (m : Mem) (d : Dev) (c : Chan) (at_ : Nat) : Dev :=
  match (ch d c).mach.playing with
  | none => d
  | some i =>
    let d := modMach d c fun m => { m with playing := some { i with done := i.done + 1 } }
    if i.stream then
      let p := (ch d c).mach.pidx
      match (ch d c).mach.fifo.find? fun s => decide (s.idx = p) with
      | some s =>
        let x := codeSetpoint s.x.toInt (rd d (chBlk c) CH_SSCALE).toInt (rd d (chBlk c) CH_SOFS).toInt
        let d := modMach d c fun m =>
          { m with fifo := m.fifo.filter (fun s => decide (s.idx ≠ p)), pidx := p + 1,
                   provs := onLast (fun q => { q with used := q.used ++ [s] }) m.provs }
        leadPush d c at_ x
      | none => underrun d c i at_
    else
      let x := sx 16 (waveWordAt m d c.bank (i.start + i.done % i.len) at_)
      leadPush d c at_ (codeSetpoint x i.scale i.ofs)

/-! ### Markers (R222) -/

/-- A marker record of an item that started at `ts`, with the values of the modulator sample from its start on. -/
def markerRecord (d : Dev) (c : Chan) (ts : TS) (mark : Nat) (x : Int × Int × Int × Int) : Dev :=
  let f := fresh d
  makeRecord f.2 c
    { type := 3, ts := ts, v := x.1, i := x.2.1, at30 := mark, fl := contFlags d c ||| auxFlags d c,
      step := (ch d c).mach.counter % 65536, qe := some x.2.2, noise := .open_ f.1 }

/-- A marker is bound to the item that stands at its start instant (R219, R222): its registers, and its record now or when the sample from
its start on has been taken. -/
def bindMarker (d : Dev) (c : Chan) (seg mark : Nat) (ts : TS) (x : Option (Int × Int × Int × Int)) : Dev :=
  let d := wr d (chBlk c) CH_SEGMK (BitVec.ofNat 32 (seg % 4096 * 65536 + mark))
  let d := wr (wr d (chBlk c) CH_SEGTS_LO (ts.truncate 32)) (chBlk c) CH_SEGTS_HI ((ts >>> 32).truncate 32)
  if !flag d (chBlk c) CH_SREC 1 then d else
  match x with
  | some x => markerRecord d c ts mark x
  | none => modMach d c fun m => { m with segRec := some (ts, mark) }

/-- V, I, Q and E of the newest modulator sample of a channel. -/
def newestSample (d : Dev) (c : Chan) : Int × Int × Int × Int :=
  ((ch d c).meas.lastV, grpSum d c (fun k => k.meas.lastI), grpSum d c (fun k => k.meas.q), grpSum d c (fun k => k.meas.e))

/-- The modulator sample that is the first at or after an item's start is kept for the item's marker record, or makes it (R222). -/
def markerSample (d : Dev) (c : Chan) : Dev :=
  let m := (ch d c).mach
  if m.segRec.isNone && m.provs.all (fun p => p.samp.isSome) then d else
  let x := newestSample d c
  let d := modMach d c fun m => { m with segRec := none, provs := m.provs.map fun p => { p with samp := p.samp.or (some x) } }
  match m.segRec with
  | some r => markerRecord d c r.1 r.2 x
  | none => d

/-- The values at the present instant where its modulator sample has been taken already. -/
def sampleNow (d : Dev) (c : Chan) : Option (Int × Int × Int × Int) :=
  if (match (ch d c).meas.bef with | some b => decide (b.at_ = d.tb.mono ∧ b.cum.n < (ch d c).meas.cum.n) | none => false)
  then some (newestSample d c) else none

/-! ### Items (R212, R219, R220) -/

/-- A provisional item stands at its deadline: its underruns take their effect, its marker is bound, and the step ends at a tick at which
ABORT asked for it (R217, R219, R222). -/
def provStands (d : Dev) (c : Chan) (p : Prov) : Dev :=
  let d := modMach d c fun m => { m with provs := m.provs.drop 1 }
  let d := forEach (List.replicate p.miss ()) d fun d _ => underrunNote d c p.abort.isSome
  let d := match p.mark with | some k => bindMarker d c p.seg k p.tick.ts p.samp | none => d
  match p.abort, (ch d c).mach.step with
  | some t, some s => if s.started && decide (s.startMono ≤ t.at_) then endStepAt d c (some t) 0x07 0 else d
  | _, _ => d

/-- No item has replaced a cancelled one by its deadline: the step ends at the tick, and its marker waits for the next item (R219, R220). -/
def replaceEnds (d : Dev) (c : Chan) (p : Prov) : Dev :=
  let d := modMach d c fun m => { m with replaced := none, segm := m.segm.or (p.mark.map fun k => (k, p.tick.at_)) }
  endStepAt d c (some p.tick) 0x01 0

/-- The successor deadlines that have come (R219, R220). -/
def succDue (d : Dev) (c : Chan) : Dev :=
  let due := (ch d c).mach.provs.takeWhile (provDue d.tb.mono)
  let d := forEach due d fun d p => provStands d c p
  match (ch d c).mach.replaced with
  | some p => if provDue d.tb.mono p then replaceEnds d c p else d
  | none => d

/-- The segment number that an item reports (R222). -/
def itemSeg (i : PlayItem) : Nat := if i.stream then 0xFFF else i.seg

/-- An item starts at the present instant: its sample 0 plays (R212). The marker of a SEGM issued before the instant is its own; that of a
provisional item is bound at the deadline (R219, R222). -/
def itemStart (m : Mem) (d : Dev) (c : Chan) (i : PlayItem) (prov : Bool) : Dev :=
  let k := (ch d c).mach
  let mine := k.segm.filter fun x => decide (x.2 < d.tb.mono)
  let x := sampleNow d c
  let tk := tickNow d c
  let d := modMach d c fun k =>
    { k with playing := some i, itemAt := some d.tb.mono, tickAt := some d.tb.mono, itemTs := fieldNow d,
             segm := if mine.isSome then none else k.segm,
             provs := if prov then k.provs ++ [{ tick := tk, seg := itemSeg i, pidx := k.pidx, last := k.playLast,
                                                 mark := mine.map fun y => y.1, samp := x }] else k.provs }
  let d := playSample m d c d.tb.mono
  match prov, mine with
  | false, some y => bindMarker d c (itemSeg i) y.1 (fieldNow d) x
  | _, _ => d

/-- The ticks that have passed since a replaced item's tick play at once, each due at its own play lead; an item that was over at one of them
has ended the step there (R213, R219). -/
def replayTicks (m : Mem) (d : Dev) (c : Chan) (at0 : Nat) : List Int → Dev
  | [] => d
  | x :: r =>
    match (ch d c).mach.playing with
    | none => d
    | some i =>
      if itemOver i then endStepAt d c (some (tickOf d c (at0 + x.toNat))) 0x01 0
      else replayTicks m (playSample m d c (at0 + x.toNat)) c at0 r

/-- The item that a taken branch left room for starts at the tick of the one it replaces (R219). It is provisional in its turn. -/
def itemReplace (m : Mem) (d : Dev) (c : Chan) (i : PlayItem) (p : Prov) : Dev :=
  let d := modMach d c fun k =>
    { k with playing := some i, replaced := none, itemAt := some p.tick.at_, itemTs := p.tick.ts,
             provs := k.provs ++ [{ p with seg := itemSeg i, used := [], miss := 0, abort := none }] }
  let d := playSample m d c p.tick.at_
  let ticks := ticksAfter d c.bank i.timer p.tick.ts (fieldNow d)
  let d := replayTicks m d c p.tick.at_ ticks
  modMach d c fun m =>
    { m with passed := [], tickAt := if ticks.any fun x => p.tick.at_ + x.toNat = d.tb.mono then some d.tb.mono else m.tickAt }

/-- Whether a step that a PLAY or STREAM would start lacks a limit (R186, R194). -/
def waveUnset (d : Dev) (c : Chan) : Bool := (ch d c).mach.step.isNone && decide (driveFault d c .wave = some 9)

/-- A PLAY or STREAM issued with its item (R187, R213, R219). -/
def playIssue (m : Mem) (d : Dev) (c : Chan) (i : PlayItem) : Issue :=
  if !bit (timerReg d c.bank i.timer) 31 then .error 10 else
  let k := (ch d c).mach
  match k.step with
  | none =>
    let d1 := modMach d c fun k => { k with playing := some i, queue := [], replaced := none, itemAt := none, playLast := 0 }
    match driveFault d1 c .wave with
    | some n => .error n
    | none =>
      let d2 := requestStep d1 c .wave
      .ok (modMach d2 c fun k => { k with playLast := match k.prevMode with | some (md, sp) => if md = 4 then 0 else sp | none => 0 })
  | some s =>
    if s.mode ≠ i.qty then .error 10 else
    match k.replaced with
    | some p => .ok (itemReplace m (nextPc d c) c i p)
    | none =>
      if k.queue ≠ [] then .ok (modMach d c fun k => { k with st := .wait, wait := .room })
      else .ok (modMach d c fun k => { k with queue := [i], pc := k.pc + 1 })

/-- The issue of a PLAY word (R187, R207, R213); of its faults an unset limit comes first (R194). -/
def playWord (m : Mem) (c : Chan) (d : Dev) (w : Nat) : Issue :=
  let d := succDue d c
  let s := if fMod w 5 then (wReg (ch d c).mach (fA w)).toNat % 4096 else fImm w 11 0
  if waveUnset d c then .error 9 else
  match segItem m d c.bank s (fImm w 31 16 + 1) with
  | none => .error 10
  | some i => playIssue m d c i

/-- The issue of a STREAM word (R187): a timer of 16 or more or a quantity of 3 is ILLEGAL. -/
def streamWord (m : Mem) (c : Chan) (d : Dev) (w : Nat) : Issue :=
  let d := succDue d c
  let q := fMods w 1 0
  let t := fImm w 39 32
  if 16 ≤ t ∨ q = 3 then .error 1 else
  if waveUnset d c then .error 9 else
  playIssue m d c { stream := true, seg := 0xFFF, timer := t, qty := q, start := 0, len := fImm w 31 0, scale := 0, ofs := 0,
                    reps := 1, abort := fMod w 2, done := 0 }

/-- PLAY (R187). -/
def doPlay (m : Mem) (c : Chan) (d : Dev) : Dev := issue m d c (isOp 0x30) fun d w => playWord m c d w

/-- STREAM (R187). -/
def doStream (m : Mem) (c : Chan) (d : Dev) : Dev := issue m d c (isOp 0x31) fun d w => streamWord m c d w

/-- The queue has room: a PLAY or STREAM that waited for it is issued (R187). -/
def doQueueRoom (m : Mem) (c : Chan) (d : Dev) : Dev :=
  let k := (ch d c).mach
  if k.wait = .room ∧ k.queue = [] then
    let d := modMach d c resumed
    issue m d c (fun w => isOp 0x30 w || isOp 0x31 w) fun d w => if fOp w = 0x30 then playWord m c d w else streamWord m c d w
  else d

/-- SEGM (R187, R222): a second SEGM before the item starts replaces the first. -/
def doSegm (m : Mem) (c : Chan) (d : Dev) : Dev :=
  issue m d c (isOp 0x32) fun d w => .ok (modMach d c fun k => { k with segm := some (fImm w 15 0, d.tb.mono), pc := k.pc + 1 })

/-! ### Ticks -/

/-- The setpoint of the first sample of an item, as the power ledger takes it (R271): a stream sample that is not there holds the
last setpoint (R217). -/
def firstSetpoint (m : Mem) (d : Dev) (c : Chan) (i : PlayItem) : Int :=
  if i.stream then
    match (ch d c).mach.fifo.find? fun s => decide (s.idx = (ch d c).mach.pidx) with
    | some s => codeSetpoint s.x.toInt (rd d (chBlk c) CH_SSCALE).toInt (rd d (chBlk c) CH_SOFS).toInt
    | none => (ch d c).mach.playLast
  else codeSetpoint (sx 16 (waveWordAt m d c.bank i.start d.tb.mono)) i.scale i.ofs

/-- A requested waveform-follow step starts at a tick of its item's timer after a control sample boundary (R212). Items of the step before it
are no longer provisional. -/
def waveStart (m : Mem) (d : Dev) (c : Chan) (i : PlayItem) : Dev :=
  let a := ledgerAdmit d c (firstSetpoint m d c i)
  if !a.1 then a.2 else
  let d := forEach (ch a.2 c).mach.provs a.2 fun d p => provStands d c p
  itemStart m (startStep d c) c i false

/-- The playing item ends at a tick: its successor starts there, or the step ends with END (R212, R213). -/
def itemNext (m : Mem) (d : Dev) (c : Chan) : Dev :=
  let d := modMach d c fun k => { k with tickAt := some d.tb.mono }
  match (ch d c).mach.queue with
  | i :: r => itemStart m (modMach d c fun k => { k with queue := r }) c i true
  | [] => offerEnd (modMach d c fun k => { k with playing := none }) c 0x01 0

/-- A tick of a bank timer at a channel (R212); a playing or queued segment on the timer that has become absent is a machine fault
with cause ECC (R344). The ticks after a cancelled item are kept for the one that replaces it. -/
def chanTick (m : Mem) (d : Dev) (c : Chan) (t : Nat) : Dev :=
  let d := succDue d c
  let k := (ch d c).mach
  let lost (i : PlayItem) : Bool := !i.stream && decide (i.timer = t) && (bk d c.bank).seq.badSegs.contains i.seg
  if (k.playing.toList ++ k.queue).any lost then machineFault d c 11 else
  let d := if k.replaced.isSome then modMach d c fun k => { k with passed := k.passed ++ [tickNow d c] } else d
  match k.step, k.playing with
  | some s, some i =>
    if s.kind ≠ .wave ∨ i.timer ≠ t then d
    else if !s.started then (if s.settled then waveStart m d c i else d)
    else if k.tickAt = some d.tb.mono then d
    else if itemOver i then itemNext m d c
    else playSample m (modMach d c fun k => { k with tickAt := some d.tb.mono }) c d.tb.mono
  | _, _ => d

/-- A tick of timer `t` of bank `b` (R211). -/
def doTimerTick (m : Mem) (b : Bank) (t : Nat) (d : Dev) : Dev :=
  if bit (timerReg d b t) 31 && timerTicks d b t then forEach (bankChans b) d fun d c => chanTick m d c t else d

/-- The successor deadline, 1.2 µs after the tick (R219, R220): the item stands and its marker is bound, or the step ends
at the tick. -/
def doSuccessorDeadline (c : Chan) (d : Dev) : Dev := succDue d c

/-! ### The stream FIFO -/

/-- A signed difference of stream indices (R215). -/
def idxDiff (a b : Word) : Int := (a - b).toInt

/-- The samples of an STRM message, two to a word (R214). -/
def strmSamples (f : Word) : List Word → Nat → List Sample
  | [], _ => []
  | _, 0 => []
  | w :: _, 1 => [⟨f, w.truncate 16⟩]
  | w :: r, n + 2 => ⟨f, w.truncate 16⟩ :: ⟨f + 1, (w >>> 16).truncate 16⟩ :: strmSamples (f + 2) r n

/-- A well-formed STRM message reaches its channel (R215). -/
def strmChan (d : Dev) (c : Chan) (n : Nat) (f : Word) (ss : List Sample) : Dev :=
  let m := (ch d c).mach
  let rej := fun (d : Dev) => bump d (chBlk c) CH_SREJ
  if !flag d (chBlk c) CH_SCTL 0 then rej d
  else if f ≠ m.widx then rej (raEvent d (chBlk c) CH_SSTS 0x4)
  else
    let keep := ss.filter fun s => decide (0 ≤ idxDiff s.idx m.pidx)
    if 2048 < m.fifo.length + keep.length then rej (raEvent d (chBlk c) CH_SSTS 0x2)
    else modMach d c fun m => { m with widx := m.widx + BitVec.ofNat 32 n, fifo := m.fifo ++ keep }

/-- An STRM message (R214, R215). -/
def strmMsg (d : Dev) (payload : List Word) : Dev :=
  match payload with
  | [] => d
  | w :: r =>
    let b : Bank := ⟨bits w 28 26 % 8, Nat.mod_lt _ (by decide)⟩
    let n := bits w 10 0
    let bad := bump d (.bank b .bk) BK_STRM_BAD
    match r with
    | [] => bad
    | f :: ws =>
      if 24 ≤ bits w 25 21 ∨ n = 0 ∨ 1024 < n ∨ ws.length ≠ (n + 1) / 2 then bad
      else strmChan d (b.chan (bits w 25 21)) n f (strmSamples f ws n)

/-- Whether an item of a channel plays or is queued (BK_WSTS.PLAYING). -/
def chanPlays (m : Mach) : Bool := m.playing.isSome || decide (m.queue ≠ [])

/-- Whether a stream item plays or is queued (CH_SCTL.RESET). -/
def streamPlays (m : Mach) : Bool := (m.playing.toList ++ m.queue).any fun i => i.stream

/-- Channels of a bank with an item on a timer playing or queued (BK_WTMRt.USE). -/
def timerUse (d : Dev) (b : Bank) (t : Nat) : Nat :=
  ((bankChans b).filter fun c =>
    ((ch d c).mach.playing.toList ++ (ch d c).mach.queue).any fun i => decide (i.timer = t)).length

/-- The stream of a channel is reset (R214, CH_SCTL.RESET), which is refused while a stream item plays or is queued. -/
def streamReset (d : Dev) (p : Port) (c : Chan) (al : Nat) : Dev :=
  if streamPlays (ch d c).mach then accErr d p (chBlk c) (CH_SCTL + 0x4000 * al) 1
  else modMach d c fun m => { m with widx := 0, pidx := 0, fifo := [] }

end Sys2Proof.Machine
end

