-- ==== Sys2Proof/Machine/Capture.lean ====
section
/-! DEFINITION. Capture, triggers and Moulds: the ARM, TRIGC and MOULD instructions, the capture decimator, trigger conditions and groups, capture records, and Mould tests and their actions (R227 to R250). -/

namespace Sys2Proof.Machine

open Sys2Proof

/-! ### Sizes and instants -/

/-- The capture decimation ratio of a channel. -/
def capDec (d : Dev) (c : Chan) : Nat := max 40 (fld d (bankOf c .cap) (CAP_CCFG + 0x20 * c.inBank) 23 0)

/-- The sample period P in taps: DEC x 100 ns. -/
def capP (d : Dev) (c : Chan) : Nat := capDec d c * 10240

/-- Pages of a channel's run. -/
def capPages (d : Dev) (c : Chan) : Nat := fld d (bankOf c .cap) (CAP_CALLOC + 0x20 * c.inBank) 26 16

/-- First page of a channel's run. -/
def capBase (d : Dev) (c : Chan) : Nat := fld d (bankOf c .cap) (CAP_CALLOC + 0x20 * c.inBank) 9 0

/-- The capacity of a channel in pairs (R228). -/
def capCap (d : Dev) (c : Chan) : Nat := 682 * capPages d c

/-- The memory address of a ring index (R227, R228, R438). -/
def capAddr (d : Dev) (c : Chan) (i : Nat) : Nat :=
  bankMem c.bank + 0x02000000 + 0x1000 * (capBase d c + i / 682) + 6 * (i % 682)

/-- Whether a capture is armed: PRIMED, ARMED or FILLING (R231). -/
def capBusy (k : Capture) : Bool := decide (k.st ∈ [.primed, .armed, .filling])

/-- The first sample instant of the capture decimator at or after an instant of elapsed taps not before now (R230). -/
def capFirstAt (d : Dev) (c : Chan) (a : Nat) : Nat :=
  let p := capP d c
  let now := extTaps d (fieldNow d)
  a + ((-((now + (a - d.tb.mono) : Nat) + 3 * p / 2 : Int)) % (p : Nat)).toNat

/-- The ring index of a sample number (R231). -/
def capIdx (d : Dev) (c : Chan) (k : Int) : Nat :=
  ((k - (ch d c).cap.firstK.getD k) % (max 1 (capCap d c) : Nat)).toNat

/-- The number of the first sample that a capture under way stores or will store (R231). -/
def capFirstK (k : Capture) (p : Nat) : Int := k.firstK.getD (k.outNo + ((k.firstAt : Int) - k.outAt + p - 1) / (max 1 p : Nat))

/-- The step counter of a channel at an instant of elapsed taps: the one before the oldest change after it, else the present one (R242). -/
def counterAt (d : Dev) (c : Chan) (x : Int) : Nat :=
  match ((ch d c).cap.steps.takeWhile fun y => decide (x < y.1)).getLast? with
  | some y => y.2
  | none => (ch d c).mach.counter

/-! ### Arming (R231 to R233, R238) -/

/-- A trigger slot as it becomes live, with its history empty; a time slot takes the running step's start (R235). -/
def slotLive (d : Dev) (c : Chan) (s : TrigSlot) : TrigSlot :=
  let at_ := match (ch d c).mach.step with
    | some x => if x.started then some (x.startMono + s.wa.toNat * tapsPerUs) else none
    | none => none
  { s with live := true, readyR := false, readyF := false, prevY := none, clrd := false, met := none, timeAt := at_ }

/-- A capture becomes ARMED: its slots become live. -/
def capArmed (d : Dev) (c : Chan) : Dev :=
  let d := modCap d c fun k => { k with st := .armed, slots := k.slots.map fun s => s.map (slotLive d c) }
  raEvent d (bankOf c .cap) (CAP_CSTS + 0x20 * c.inBank) 0x1

/-- Whether two captures belong to one trigger group. -/
def sameGroup (a : Capture) (group slgrp : Nat) : Bool :=
  decide (a.group = group) && decide (group ≠ 0) && (decide (group ≠ 9) || decide (a.slgrp = slgrp))

/-- Stored pairs that a capture keeps, from the first to the last sample number: from k - pre, or everything that never fired; no
more than the ring holds (R232, R239). -/
def capKept (d : Dev) (c : Chan) : Int × Int :=
  let k := (ch d c).cap
  let first := k.firstK.getD (k.lastK + 1)
  let oldest := max first (k.lastK + 1 - capCap d c)
  match k.anchor with
  | some a => (max oldest (a.k - k.pre), k.lastK)
  | none => (oldest, k.lastK)

/-- The capture record of R242, and the registers that hold its positions (R234). A capture that stored no pair has no first pair, and
FIRST and FTS are free values. -/
def capRecord (d : Dev) (c : Chan) (cancel : Bool) (short : Bool) : Dev :=
  let d := nextSeq d c
  let k := (ch d c).cap
  let blk := bankOf c .cap
  let o := 0x20 * c.inBank
  let kept := capKept d c
  let n := (kept.2 + 1 - kept.1).toNat
  let full (x : Option Int) : Bool := x.any fun y => decide (kept.1 ≤ y)
  let npre := match k.anchor with | some a => (min (a.k - 1) kept.2 + 1 - kept.1).toNat | none => n
  let x := fresh d
  let d := if n = 0 then x.2 else d
  let first := if n = 0 then Config.free x.1 % 0x100000 else capIdx d c kept.1
  let fts := if n = 0 then BitVec.ofNat 64 (Config.free x.1 / 0x100000) else tsAdd k.outTs ((kept.1 - k.outNo) * capP d c)
  let tts : TS := match k.anchor with | some a => a.ts | none => 0
  let f := match k.anchor with | some a => a.f | none => 0
  let cause := match k.anchor with | some a => a.cause + 0x100 * a.psrc | none => 0x700
  let origin := match k.anchor with | some a => a.origin * 0x10000 + a.ochan | none => 0
  let flags := b2n k.late + 2 * b2n short + 4 * b2n (flag d bTB TB_STS 18)
    + 8 * b2n (full k.ovrV) + 0x10 * b2n (full k.ovrI)
  let step := match k.anchor with | some a => a.step | none => (ch d c).mach.counter
  let bytes := leBytes 1 5 ++ leBytes 1 1 ++ leBytes 1 c.bank.val ++ leBytes 1 c.inBank
    ++ leBytes 4 (rd d (chBlk c) CH_RECSEQ).toNat ++ leBytes 8 tts.toNat ++ leBytes 8 fts.toNat ++ leBytes 4 first
    ++ leBytes 4 npre ++ leBytes 4 (n - npre) ++ leBytes 4 (capDec d c) ++ leBytes 4 (rd d (chBlk c) CH_SHUNT).toNat
    ++ leBytes 4 origin ++ leBytes 2 cause ++ leBytes 1 f ++ leBytes 1 flags ++ leBytes 1 (b2n cancel) ++ leBytes 1 k.group
    ++ leBytes 1 (if k.group = 9 then k.slgrp else 0) ++ leBytes 1 (fld d (chBlk c) CH_MCFG 1 0)
    ++ leBytes 1 (match k.anchor with | some a => a.mould | none => 255)
    ++ leBytes 1 (match k.anchor with | some a => a.mbound | none => 255)
    ++ leBytes 2 k.ign ++ leBytes 2 (ch d c).meas.lost ++ leBytes 2 (step % 65536)
  let d := wr d blk (CAP_CPOS + o) (BitVec.ofNat 32 first)
  let kidx := match k.anchor with | some a => capIdx d c a.k | none => 0
  let d := wr d blk (CAP_CKIDX + o) (BitVec.ofNat 32 (f * 0x1000000 + kidx))
  let d := wr (wr d blk (CAP_CTTS_LO + o) (tts.truncate 32)) blk (CAP_CTTS_HI + o) ((tts >>> 32).truncate 32)
  spoolRecord d c bytes

/-- A capture ends: its record, its status bits, state DONE (R232, R234). -/
def capEnd (d : Dev) (c : Chan) (cancel : Bool) : Dev :=
  let k := (ch d c).cap
  let short := match k.anchor with | some a => decide (a.k - capFirstK k (capP d c) < k.pre) | none => false
  let d := capRecord d c cancel short
  let mask := (if cancel then 0x8 else 0x4) + 0x40 * b2n k.late + 0x20 * b2n short
  let d := raEvent d (bankOf c .cap) (CAP_CSTS + 0x20 * c.inBank) mask
  modCap d c fun k => { k with st := .done, armAt := none, armGrp := none, settle := none, fires := [], hostReq := none }

/-- A capture that is PRIMED, ARMED or FILLING ends with CANCEL (R233). -/
def capCancel (d : Dev) (c : Chan) : Dev := if capBusy (ch d c).cap then capEnd d c true else d

/-- START cancels a PRIMED or ARMED capture, leaves a FILLING one, and disables the four slots (R233). -/
def capStart (d : Dev) (c : Chan) : Dev :=
  let d := if (ch d c).cap.st ∈ [.primed, .armed] then capEnd d c true else d
  modCap d c fun k => { k with slots := [none, none, none, none], armAt := none, armGrp := none }

/-- What an ARM leaves for the arm instant (R231, R232). -/
def capArmReq (d : Dev) (c : Chan) (pre post group slgrp : Nat) (master : Bool) : Dev :=
  let d := restBreak (capCancel d c) c.bank
  let a := nextMod d
  modCap d c fun k =>
    { k with armAt := some a, armGrp := none, pre := pre, post := max 1 post, group := group, slgrp := slgrp, master := master }

/-- ARM (R188, R231, R232): the leader of a locked group arms every member. A group of 10 to 15 is ILLEGAL. -/
def doArm (m : Mem) (c : Chan) (d : Dev) : Dev :=
  issue m d c (isOp0 0x3A false) fun d w =>
    let k := (ch d c).mach
    let pre := (wReg k (fA w)).toNat
    let post := (wReg k (fB w)).toNat
    let bad := fun x => decide (capPages d x = 0) || decide (capCap d x < pre + max 1 post)
    guardIssue [(decide (9 < fImm w 3 0), 1), ((members d c).any bad, 10)]
      (nextPc (forEach (members d c) (modMach d c fun m => { m with trg := false }) fun d x =>
        capArmReq d x pre post (fImm w 3 0) (fImm w 15 8) (fMod w 1)) c)

/-- The group arm of a master reaches the PRIMED captures of its group on the device; the device sends an ARM in a Shelf Link
group (R238). -/
def groupArm (d : Dev) (c : Chan) : Dev :=
  let k := (ch d c).cap
  let d := modCap d c fun k => { k with groupArm := some d.tb.mono }
  let d := forEach (allChans.filter fun x => decide ((ch d x).cap.st = .primed) && sameGroup (ch d x).cap k.group k.slgrp) d capArmed
  if k.group = 9 then sendTrig d 1 k.slgrp (fieldNow d) c.val else d

/-- The positions that CAP_CPOSc, CAP_CKIDXc and CAP_CTTSc show from an arm instant to the next record: free values, because R234 holds
the record's only until the next ARM. -/
def capOpenPos (d : Dev) (c : Chan) : Dev :=
  let blk := bankOf c .cap
  let o := 0x20 * c.inBank
  forEach [(CAP_CPOS, 0x100000), (CAP_CKIDX, 0x100000), (CAP_CKIDX, 0x100000000), (CAP_CTTS_LO, 0x100000000), (CAP_CTTS_HI, 0x100000000)] d fun d r =>
    let x := fresh d
    wr x.2 blk (r.1 + o) ((BitVec.ofNat 32 (Config.free x.1 % r.2)) &&& (if r.1 = CAP_CKIDX then 0xFF0FFFFF else 0xFFFFFFFF))

/-- Where the decimator of a channel starts afresh with the output boundary at `t` elapsed taps: its first output completes three periods later,
so that the output before it would lie half a period after the boundary (R230, R236). -/
def capFresh (d : Dev) (c : Chan) (t : Nat) : Dev :=
  let p := capP d c
  modCap d c fun k => { k with outAt := t + p / 2, outTs := tsAdd (fieldNow d) ((t + p / 2 : Nat) - (d.tb.mono : Int)) }

/-- The arm instant (R231): recording starts; the capture is ARMED, or PRIMED until a group arm, one at the same instant
included. A capture that a remote group arm reached becomes ARMED (R238). -/
def doArmInstant (c : Chan) (d : Dev) : Dev :=
  let k := (ch d c).cap
  let now := d.tb.mono
  if k.armAt = some now then
    let d := if k.ratio = capDec d c then d
      else capFresh d c (now + (tsDiff (tsOfPeriods (gridUp d (fieldNow d) (64 * capDec d c))) (fieldNow d)).toNat)
    let d := modCap d c fun k =>
      { k with st := .primed, armAt := none, firstAt := capFirstAt d c now, firstK := none, lastK := k.outNo, fires := [], anchor := none,
               settle := none, ign := 0, ovrV := none, ovrI := none, late := false, hostReq := none }
    let d := capOpenPos d c
    if k.group = 0 then capArmed d c
    else if k.master then groupArm (capArmed d c) c
    else if allChans.any (fun x => decide ((ch d x).cap.groupArm = some now) && sameGroup (ch d x).cap k.group k.slgrp) then
      capArmed d c
    else d
  else if k.armGrp = some now ∧ k.st = .primed then capArmed (modCap d c fun k => { k with armGrp := none }) c
  else d

/-! ### Trigger slots (R235) -/

/-- Whether a live operand is one a kind takes (R235). -/
def trigOperand (kind op : Nat) : Bool :=
  match kind with
  | 0 => decide (op ≤ 2)
  | 1 => decide (op ≤ 2)
  | 2 => decide (op ≤ 2)
  | 4 => decide (op ∈ [3, 4, 10, 11])
  | _ => true

/-- TRIGC (R188, R235): sets or disables one slot. A pair that kind 4 takes must be even. -/
def doTrigc (m : Mem) (c : Chan) (d : Dev) : Dev :=
  issue m d c (isOp0 0x3A true) fun d w =>
    let k := (ch d c).mach
    let kind := fImm w 2 0
    let op := fImm w 7 4
    let code := fImm w 21 16
    let slot := fImm w 9 8
    let off := decide (fImm w 12 12 = 1)
    let a := (wReg k (fA w)).toInt
    let b := (wReg k (fB w)).toInt
    let edge := if fImm w 11 10 = 0 then 3 else fImm w 11 10
    let wa : Int := if kind = 4 then sx 64 (wPair k (fA w)) else if kind = 3 then (wReg k (fA w)).toNat else if kind = 1 then a.natAbs else a
    let s : TrigSlot := { kind := kind, op := op, wa := wa, wb := if kind = 0 then max 0 b else b, edge := edge, code := code }
    let put := fun (x : Option TrigSlot) => nextPc (modCap d c fun k => { k with slots := k.slots.set slot x }) c
    if off then .ok (put none) else
    guardIssue [(decide (6 ≤ kind), 1), (decide (kind ∉ [3, 5]) && decide (12 ≤ op), 1),
        (decide (kind = 5) && (!condExists code || condArith code), 1), (decide (kind = 4 ∧ fA w % 2 = 1), 7),
        (!trigOperand kind op, 10), (decide (kind = 2) && decide (b < a), 10)]
      (put (some s))

/-- F of R236 for a crossing of `thr` between two values, clamped to 0 to 255. -/
def fracOf (thr y1 y0 : Int) : Nat := if y1 = y0 then 0 else (clampI 0 255 (Int.fdiv (256 * (y1 - thr)) (y1 - y0))).toNat

/-- F of R236 for an instant x at or before t_k, both in taps. -/
def fracAt (tk x p : Int) : Nat := (clampI 0 255 (256 * (tk - x) / p)).toNat

/-- A trigger operand at a capture sample (R235). -/
def trigY (op : Nat) (s : CapSample) : Int := match op with | 0 => s.v | 1 => s.i | _ => powerOf s.v s.i

/-- Whether a level, slope or window slot is met at the newest sample, with its F (R235, R236); `z` is y_(k-2). -/
def slotMet (s : TrigSlot) (y x z : Int) : Option Nat :=
  let up := decide (s.edge ≠ 2)
  let dn := decide (s.edge ≠ 1)
  match s.kind with
  | 0 => if (up && s.readyR && decide (s.wa ≤ y)) || (dn && s.readyF && decide (y ≤ s.wa)) then some (fracOf s.wa y x) else none
  | 1 =>
    let s1 := y - x
    let s0 := x - z
    if up && decide (s0 < s.wa) && decide (s.wa ≤ s1) then some (fracOf s.wa s1 s0)
    else if dn && decide (-s.wa < s0) && decide (s1 ≤ -s.wa) then some (fracOf (-s.wa) s1 s0) else none
  | _ =>
    if s.wa ≤ x ∧ x ≤ s.wb then
      if up && decide (s.wb < y) then some (fracOf s.wb y x) else if dn && decide (y < s.wa) then some (fracOf s.wa y x) else none
    else none

/-- What a level slot remembers of a sample (R235). -/
def slotNote (s : TrigSlot) (y : Int) : TrigSlot :=
  { s with age := min 2 (s.age + 1), readyR := if y ≤ s.wa - s.wb then true else if s.wa ≤ y then false else s.readyR,
           readyF := if s.wa + s.wb ≤ y then true else if y ≤ s.wa then false else s.readyF }

/-- The class of a slot kind in the order of R237. -/
def slotCls (kind : Nat) : Nat := if kind ≤ 2 then 1 else if kind ≤ 4 then 2 else 3

/-- The fires of the slots whose trigger sample is the newest one, at instant `tk` of elapsed taps (R235 to R237); none at the first
stored sample. -/
def slotFires (k : Capture) (tk p : Nat) (y : CapSample) : List Fire :=
  (k.slots.zipIdx.filterMap fun o =>
    match o.1 with
    | none => none
    | some s =>
      if !s.live || decide (s.age < (if s.kind = 1 then 2 else if s.kind ≤ 2 then 1 else 0)) then none else
      let inSpan := fun (x : Nat) => decide (tk - p < x) && decide (x ≤ tk)
      match s.kind with
      | 3 => match s.timeAt with
        | some x => if inSpan x then some ⟨o.2, 2, y.k, fracAt tk x p, 255, 255⟩ else none
        | none => none
      | 4 => match s.met with
        | some x => if x ≤ tk then some ⟨o.2, 2, y.k, fracAt tk x p, 255, 255⟩ else none
        | none => none
      | 5 => match s.met with
        | some x => if x ≤ tk then some ⟨o.2, 3, y.k, fracAt tk x p, 255, 255⟩ else none
        | none => none
      | _ => match k.last, k.prev with
        | some x, some z =>
          (slotMet s (trigY s.op y) (trigY s.op x) (trigY s.op z)).map fun f => ⟨o.2, 1, y.k, f, 255, 255⟩
        | some x, none =>
          if s.kind = 1 then none
          else (slotMet s (trigY s.op y) (trigY s.op x) (trigY s.op x)).map fun f => ⟨o.2, 1, y.k, f, 255, 255⟩
        | none, _ => none)

/-- The charge slots of an ARMED capture at a modulator sample boundary (R116, R235): from the boundary after the first stored sample a
slot for a rise or a fall is met when the integrator has its pair's value or lies beyond it, and one for either when it crosses it;
after a clear a slot compares only a later crossing. -/
def capCharge (d : Dev) (c : Chan) : Dev :=
  let k := (ch d c).cap
  if k.st ≠ .armed ∨ !(k.slots.any fun s => s.any fun x => x.live && x.kind == 4) then d else
  let now := d.tb.mono
  let val := fun (op : Nat) =>
    match op with | 3 => chQ d c | 4 => chE d c | 10 => stepQ d c | _ => stepE d c
  modCap d c fun k => { k with slots := k.slots.map fun o => o.map fun x =>
    if !x.live || x.kind != 4 || x.met.isSome then x else
    let y := val x.op
    let hit := match x.prevY with
      | some z => (decide (x.edge ≠ 2) && decide (z < x.wa) && decide (x.wa ≤ y))
          || (decide (x.edge ≠ 1) && decide (x.wa < z) && decide (y ≤ x.wa))
      | none => !x.clrd && ((decide (x.edge = 1) && decide (x.wa ≤ y)) || (decide (x.edge = 2) && decide (y ≤ x.wa)))
    if now ≤ k.firstAt then { x with prevY := if x.edge = 3 then some y else none } else
    { x with prevY := some y, met := if hit then some now else none } }

/-- A clear of the integrators lies between two values of a charge slot on Q or E (R116). -/
def capClear (k : Capture) : Capture :=
  { k with slots := k.slots.map fun o => o.map fun x =>
      if x.kind = 4 ∧ (x.op = 3 ∨ x.op = 4) then { x with prevY := none, clrd := true } else x }

/-! ### Moulds (R243 to R249) -/

/-- The register of a Mould. -/
def mldReg (d : Dev) (b : Bank) (mm : Nat) : Word := rd d (.bank b .mld) (MLD_CFG + 4 * mm)

/-- Vertex j of a bound: X and Y (R243). -/
def mldVertex (m : Mem) (b : Bank) (mm : Nat) (lower : Bool) (j : Nat) : Int × Int :=
  let a := bankMem b + 0x03000000 + 0x400 * mm + (if lower then 0x200 else 0) + 8 * j
  ((m.read32 a).toNat, (m.read32 (a + 4)).toInt)

/-- The used vertices of a bound (R243). -/
def mldVertices (m : Mem) (d : Dev) (b : Bank) (mm : Nat) (lower : Bool) : List (Int × Int) :=
  let r := mldReg d b mm
  (List.range (min 64 (if lower then bits r 6 0 else bits r 14 8))).map (mldVertex m b mm lower)

/-- The value of a bound at x, where it has one (R245). -/
def boundAt : List (Int × Int) → Int → Option Int
  | [], _ => none
  | [(x0, y0)], x => if x0 ≤ x then some y0 else none
  | (x0, y0) :: (x1, y1) :: r, x =>
    if x < x0 then none else if x < x1 then some (y0 + (y1 - y0) * (x - x0) / (x1 - x0)) else boundAt ((x1, y1) :: r) x

/-- Whether the X values of a bound rise strictly (R244). -/
def risesX (l : List (Int × Int)) : Bool := (l.zip (l.drop 1)).all fun p => decide (p.1.1 < p.2.1)

/-- Whether a Mould's settings let it be enabled (R244). -/
def mldMayEnable (m : Mem) (d : Dev) (b : Bank) (mm : Nat) : Bool :=
  let r := mldReg d b mm
  let up := mldVertices m d b mm false
  let lo := mldVertices m d b mm true
  decide (1 ≤ up.length + lo.length) && risesX up && risesX lo && decide (bits r 29 27 ≤ 4)
    && (decide (bits r 29 27 ≠ 4) || bit r 30)

/-- Whether a Mould is bound to any channel of the bank, in a set-up or a running step. -/
def mldBound (d : Dev) (b : Bank) (mm : Nat) : Bool :=
  (bankChans b).any fun c =>
    let has := fun (s : Setup) => s.binds.any fun o => o.any fun x => decide (x.mould.val = mm)
    has (ch d c).mach.setup || (match (ch d c).mach.step with | some s => has s.setup | none => false)

/-- The binding byte of MLD_BINDc. -/
def bindByte : Option Binding → Nat
  | some x => 0x80 + x.action % 4 * 0x20 + x.mould.val
  | none => 0

/-- MLD_BINDc for a list of bindings. -/
def bindWord (l : List (Option Binding)) : Word :=
  BitVec.ofNat 32 ((l.zipIdx.map fun x => bindByte x.1 * 256 ^ x.2).foldl (· + ·) 0)

/-- The bindings after a MOULD (R247): none when a fifth distinct Mould would be bound. -/
def bindPut (l : List (Option Binding)) (x : Binding) : Option (List (Option Binding)) :=
  match l.findIdx? fun o => o.any fun y => decide (y.mould = x.mould) with
  | some i => some (l.set i (some x))
  | none => (l.findIdx? (·.isNone)).map fun i => l.set i (some x)

/-- MOULD (R188, R244, R247): binds or unbinds for the steps to come. -/
def doMould (m : Mem) (c : Chan) (d : Dev) : Dev :=
  issue m d c (isOp 0x3B) fun d w =>
    let act := fMods w 1 0
    let un := fMod w 2
    let mm : Fin 16 := ⟨fImm w 3 0 % 16, Nat.mod_lt _ (by decide)⟩
    let h := fImm w 31 16
    let l := (ch d c).mach.setup.binds
    let new := if un then some (l.map fun o => if o.any (fun y => decide (y.mould = mm)) then none else o) else bindPut l ⟨mm, act, h⟩
    guardIssue [(decide (act = 3), 1), (!un && decide (act = 2) && decide (bodyLen d c ≤ h), 2),
        (!bit (mldReg d c.bank mm.val) 31, 10), (new.isNone, 10)]
      (let l := new.getD l
       wr (putSetup d c fun s => { s with binds := l }) (bankOf c .mld) (MLD_BIND + 4 * c.inBank) (bindWord l))

/-- One test of a bound: its run, and whether a violation counts (R246). -/
def boundTest (bound : Option Int) (y : Int) (lower : Bool) (need run : Nat) : Nat × Bool :=
  match bound with
  | none => (run, false)
  | some v =>
    if (if lower then decide (y < v) else decide (v < y)) then (min 63 (run + 1), decide (need ≤ run + 1)) else (0, false)

/-- Tests one bound Mould at a point: its run after the test, and whether a violation of the upper and of the lower bound counts (R245,
R246). -/
def mouldPoint (m : Mem) (d : Dev) (b : Bank) (mm : Fin 16) (run : MouldRun) (x y : Int) : MouldRun × Bool × Bool :=
  let need := max 1 (bits (mldReg d b mm.val) 21 16)
  let up := boundTest (boundAt (mldVertices m d b mm.val false) x) y false need run.up
  let lo := boundTest (boundAt (mldVertices m d b mm.val true) x) y true need run.lo
  ({ run with up := up.1, lo := lo.1 }, up.2, lo.2)

/-- The running step's bindings with the runs of their tests. -/
def stepBinds (d : Dev) (c : Chan) : List (Option Binding × MouldRun) :=
  match (ch d c).mach.step with
  | some s => if s.started then s.setup.binds.zip (ch d c).cap.runs else []
  | none => []

/-- The violation that gives the action: the lowest-numbered Mould, among those with ABORT_SAFE where there is one (R249). -/
def violFirst (vs : List Violation) : Option Violation :=
  let best := fun (xs : List Violation) =>
    xs.foldl (fun (a : Option Violation) x => match a with
      | none => some x
      | some y => if x.bind.mould.val < y.bind.mould.val then some x else some y) none
  (best (vs.filter fun v => decide (v.bind.action = 0))).or (best vs)

/-- Tests one bound Mould at points in turn: its run, and the violations that count (R246). -/
def mouldRuns (m : Mem) (d : Dev) (c : Chan) (b : Binding) (run : MouldRun) (l : List (Int × Int)) : MouldRun × List Violation :=
  l.foldl (fun a p =>
    let r := mouldPoint m d c.bank b.mould a.1 p.1 p.2
    let v (lower : Bool) : Violation := ⟨b, lower, (ch d c).mach.counter⟩
    (r.1, a.2 ++ (if r.2.1 then [v false] else []) ++ (if r.2.2 then [v true] else []))) (run, [])

/-- Tests every bound Mould at the points that `pt` gives for it; the violations wait for their decision, and are a condition of an ARMED capture
with MLDTRG whose trigger sample is `k`, unless that is the first stored sample (R235, R237, R246). -/
def mouldTests (m : Mem) (d : Dev) (c : Chan) (k : Int) (pt : Nat → MouldRun → List (Int × Int)) : Dev :=
  let rs := (stepBinds d c).map fun o =>
    match o.1 with
    | some b => mouldRuns m d c b o.2 (pt b.mould.val o.2)
    | none => (o.2, [])
  if rs = [] then d else
  let vs := (rs.map Prod.snd).flatten
  let trg := flag d (bankOf c .cap) (CAP_CCFG + 0x20 * c.inBank) 31 && decide (capFirstK (ch d c).cap (capP d c) < k)
  let fire := match violFirst vs with
    | some v => if trg && decide ((ch d c).cap.st = .armed) then [⟨4, 0, k, 0, v.bind.mould.val, b2n v.lower⟩] else []
    | none => []
  modCap d c fun q => { q with runs := rs.map Prod.fst, viols := q.viols ++ vs, fires := q.fires ++ fire }

/-- The X of a test point: step time in µs or |QS| in nC, over 2^XSH (R246). -/
def mouldX (r : Word) (stepUs : Nat) (qs : Int) : Int := ((if bit r 30 then qs.natAbs else stepUs) / 2 ^ bits r 26 22 : Nat)

/-- The Mould tests at a capture sample with its instant in elapsed taps (R246): V, I and P, and T unless it is 0x8000. -/
def mouldSample (m : Mem) (d : Dev) (c : Chan) (s : CapSample) (at_ : Nat) : Dev :=
  match (ch d c).mach.step with
  | none => d
  | some st =>
    if !st.started ∨ at_ < st.startMono + 3 * capP d c / 2 then d else
    let q := match (ch d c).cap.qAt.find? fun x => decide (x.1 ≤ at_) && decide (at_ < x.1 + 10240) with
      | some x => (x.2 - st.q0) / 100000
      | none => stepQ d c
    let us := (at_ - st.startMono) / tapsPerUs
    let t := fld d (chBlk c) CH_T 15 0
    mouldTests m d c s.k fun mm _ =>
      let r := mldReg d c.bank mm
      match bits r 29 27 with
      | 0 => [(mouldX r us q, s.v)]
      | 1 => [(mouldX r us q, s.i)]
      | 2 => [(mouldX r us q, powerOf s.v s.i)]
      | 3 => if t = 0x8000 then [] else [(mouldX r us q, sx 16 t)]
      | _ => []

/-- The trigger sample and F of an instant for a capture: the first sample at or after it, and no sample before the first stored one
(R236, R239). -/
def fireSample (k : Capture) (p : Nat) (at_ : Int) : Int × Nat :=
  let n := max ((at_ - k.outAt + p - 1) / p) (if capBusy k then capFirstK k p - k.outNo else (at_ - k.outAt + p - 1) / p)
  (k.outNo + n, fracAt (k.outAt + n * p) at_ p)

/-- The Mould tests of QTY 3 on a new aux result in L2 and L3 (R246); in voltage mode the result is the aux voltage (R120). -/
def mouldAux (m : Mem) (d : Dev) (c : Chan) : Dev :=
  let t := fld d (chBlk c) CH_T 15 0
  if t = 0x8000 then d else
  mouldTests m d c (fireSample (ch d c).cap (capP d c) d.tb.mono).1 fun mm _ =>
    let r := mldReg d c.bank mm
    if bits r 29 27 = 3 then [(mouldX r (stepT d c) (stepQ d c), sx 16 t)] else []

/-- The points of a Mould of QTY 4 where |QS| has gone from its multiple `x` to `n`, with V there (R246): each multiple is one test, from the
second on. Those reached at one boundary have its V; a multiple reached without an output of the decimator has no V, and the next one is not
tested. -/
def chargePoints (x : Nat × Option Int) (n : Nat) (v : Option Int) : List (Int × Int) :=
  (List.range (n - x.1)).filterMap fun i =>
    match v, (if i = 0 then x.2 else v) with
    | some y, some z => some ((x.1 + i + 1 : Nat), y - z)
    | _, _ => none

/-- The Mould tests of QTY 4 at a modulator sample boundary: |QS| has reached further multiples of 2^XSH nC (R246). V is the newest
output of the capture decimator. -/
def mouldCharge (m : Mem) (d : Dev) (c : Chan) : Dev :=
  let bs := stepBinds d c
  let q := (stepQ d c).natAbs
  let v := (ch d c).cap.last.map fun s => s.v
  let new := fun (o : Option Binding × MouldRun) => match o.1 with
    | some b =>
      let r := mldReg d c.bank b.mould.val
      let n := q / 2 ^ bits r 26 22
      decide (bits r 29 27 = 4) && decide (n ≠ 0) && (match o.2.mult with | some x => decide (x.1 < n) | none => true)
    | none => false
  if !bs.any new then d else
  let d := mouldTests m d c (fireSample (ch d c).cap (capP d c) d.tb.mono).1 fun mm run =>
    let r := mldReg d c.bank mm
    let n := q / 2 ^ bits r 26 22
    if bits r 29 27 ≠ 4 ∨ n = 0 then [] else chargePoints (run.mult.getD (1, v)) n v
  let note := fun (o : (Option Binding × MouldRun) × MouldRun) =>
    match o.1.1, new o.1 with
    | some b, true => { o.2 with mult := some (q / 2 ^ bits (mldReg d c.bank b.mould.val) 26 22, v) }
    | _, _ => o.2
  modCap d c fun k => { k with runs := (bs.zip k.runs).map note }

/-- The decision of the violations that wait (R248, R249): recorded in every case, their action applied while their step runs. -/
def doMouldViolation (c : Chan) (d : Dev) : Dev :=
  let vs := (ch d c).cap.viols
  if vs = [] then d else
  let blk := bankOf c .mld
  let d := pendSet (modCap d c fun k => { k with viols := [] }) c fun m => { m with mld := true }
  let moulds := (List.finRange 16).filter fun i => vs.any fun v => decide (v.bind.mould = i)
  let d := forEach moulds (raEvent d blk MLD_STS 0x4) fun d _ => bump d blk MLD_VIOL_CNT
  let run : Option Step := (ch d c).mach.step.filter fun s => s.started
  let mine := vs.filter fun v => run.isSome && decide (v.step = (ch d c).mach.counter)
  match violFirst (if mine = [] then vs else mine) with
  | none => d
  | some v =>
    let n := v.bind.mould.val
    let d := wr d blk (MLD_VIOL + 4 * c.inBank) (BitVec.ofNat 32 (v.step * 0x100 + n * 0x10 + 8 * b2n v.lower + 2 * v.bind.action + 1))
    match run with
    | none => d
    | some s =>
      if mine = [] then d else
      match v.bind.action with
      | 0 =>
        let d := raEvent d blk MLD_STS 0x8
        let d := fieldEvent d blk 0x8020 (locFD c 7 5) (BitVec.ofNat 32 n) (BitVec.ofNat 32 (ch d c).mach.counter)
        safeGroup d c 0x10 n
      | 1 => offerEnd d c 0x06 n
      | _ =>
        let higher := match s.ending with | some e => decide (causePrio e ≤ causePrio (6, 0)) | none => false
        if higher then d else
        modMach (offerEnd d c 0x06 (0x80 + n)) c fun m => { m with step := m.step.map fun s => { s with branch := some v.bind.handler } }

/-! ### Capture outputs (R227, R230, R235, R237) -/

/-- Third differences of running sums at output boundaries: the sinc3 sum of the newest output (R230). -/
def diff3 (f : Int × Int × Int × Int → Int) : List (Int × Int × Int × Int) → Option Int
  | a :: b :: c :: e :: _ => some (f a - 3 * f b + 3 * f c - f e)
  | _ => none

/-- A stored code of 24 bits: full scale when the sample reaches it (R227). -/
def capCode (x lo hi : Int) : Nat := if hi ≤ x then 0x7FFFFF else if x ≤ lo then 0x800000 else ux 24 x

/-- The six bytes of a pair (R227): V in µV, I as shunt voltage in 2^-23 of the converter full scale, from the sums of V and of the shunt
voltage. -/
def capPair (d : Dev) (c : Chan) (sv ss : Int) : List Byte × Dev :=
  let n := (ch d c).cap.ratio ^ 3
  let v := meanUnits d sv (4 * n)
  let i := meanUnits v.2 ss (156250000 * n)
  (leBytes 3 (capCode v.1 (-6553600) 6553400) ++ leBytes 3 (capCode i.1 (-8388608) 8388607), i.2)

/-- An output of the capture decimator (R230): its sample, with the current of the group the channel leads. -/
def capSample (d : Dev) (c : Chan) (sv si : Int) : CapSample × Dev :=
  let k := (ch d c).cap
  let n := k.ratio ^ 3
  let v := meanUnits d sv n
  let i := meanUnits v.2 (if noShunt d c then 0 else si) n
  (⟨k.outNo + 1, v.1, i.1⟩, i.2)

/-- The running sums at an output boundary; a decimator that has stood or takes a new ratio starts afresh. -/
def capAcc (d : Dev) (c : Chan) : Dev :=
  let me := (ch d c).meas
  let a := (me.cicV.a3, me.cicI.a3, (grpSum d c fun k => k.meas.cicI.a3), me.cicS.a3)
  let r := capDec d c
  if (ch d c).cap.ratio = r then modCap d c fun k => { k with hist := (a :: k.hist).take 4 } else
  modCap (capFresh d c d.tb.mono) c fun k =>
    { k with ratio := r, hist := [a], last := none, prev := none, qAt := [] }

/-- Whether an ARMED, PRIMED or FILLING capture stores the newest output: its instant is at or after A, and a local capture has not
reached its last sample. -/
def capStores (k : Capture) (n : Int) (at_ : Nat) : Bool :=
  capBusy k && decide (k.firstAt ≤ at_) &&
    (match k.anchor with | some a => decide (k.group ≠ 0) || decide (n < a.k + k.post) | none => true)

/-- An output boundary of the capture decimator: the output is stored, tested against the slots and the bound Moulds, and slots set
while ARMED become live (R230, R235, R237, R246). -/
def capOutput (m : Mem) (d : Dev) (c : Chan) : Mem × Dev :=
  let d := capAcc d c
  let k := (ch d c).cap
  match diff3 (fun x => x.1) k.hist, diff3 (fun x => x.2.1) k.hist, diff3 (fun x => x.2.2.1) k.hist, diff3 (fun x => x.2.2.2) k.hist with
  | some sv, some si, some sg, some ss =>
    let x := capSample d c sv (if grpLeader d c = some c then sg else si)
    let p := capP d c
    let at_ := d.tb.mono - 3 * p / 2
    let ts := tsAdd (fieldNow d) (-(3 * p / 2 : Nat))
    let keep := capStores k x.1.k at_
    let w := if keep then
        let b := capPair x.2 c sv ss
        let idx := capIdx b.2 c x.1.k
        let full (t : Option Nat) (o : Option Int) : Option Int := if t.any fun t => decide (d.tb.mono < t + 3 * p) then some x.1.k else o
        let me := (ch d c).meas
        (m.writeBytes (capAddr b.2 c idx) b.1, modCap b.2 c fun k =>
          { k with firstK := k.firstK.or (some x.1.k), lastK := x.1.k, ovrV := full me.ovrVAt k.ovrV, ovrI := full me.ovrIAt k.ovrI })
      else (m, x.2)
    let q := (ch w.2 c).cap
    let later := match q.firstK with | some n => decide (n < x.1.k) | none => false
    let fires := if q.st = .armed ∧ later = true then slotFires q at_ p x.1 else []
    let host := match q.hostReq with
      | some h => if q.st = .armed ∧ h ≤ at_ then [⟨6, 4, x.1.k, fracAt at_ h p, 255, 255⟩] else []
      | none => []
    let d := modCap w.2 c fun k =>
      { k with outNo := x.1.k, outAt := at_, outTs := ts, fires := (k.fires.filter fun f => decide (x.1.k ≤ f.k)) ++ fires ++ host, prev := k.last, last := some x.1,
               slots := k.slots.map fun o => o.map fun s => if s.live then slotNote s (trigY s.op x.1) else s,
               steps := k.steps.filter fun y => decide (d.tb.mono ≤ y.1 + 4 * p) }
    let d := mouldSample m d c x.1 at_
    let d := modCap d c fun k => if k.st = .armed then
        { k with slots := k.slots.map fun o => o.map fun s =>
          if s.live then s else slotNote { slotLive d c s with age := 0 } (trigY s.op x.1) } else k
    (w.1, d)
  | _, _, _, _ => (m, d)

/-- CAPTURE_OUTPUT: every instant at which TS[63:8] is a multiple of 64 x DEC, while the bank is in L0 or L1 (R230). -/
def doCaptureOutput (c : Chan) (m : Mem) (d : Dev) : Mem × Dev :=
  if onGrid d (fieldNow d) (64 * capDec d c) && decide (pstate d c.bank ≤ 1) then capOutput m d c else (m, d)

/-! ### Firing (R237, R239, R241) -/

/-- Whether an anchor at an instant and origin comes before another (R239). -/
def anchorBefore (at1 : Int) (o1 c1 : Nat) (a : Anchor) : Bool :=
  decide (at1 < a.at_) || (decide (at1 = a.at_) && (decide (o1 < a.origin) || (decide (o1 = a.origin) && decide (c1 < a.ochan))))

/-- A capture becomes FILLING on an anchor: FIRED, TRG, and the settle window of a group capture (R231, R237, R239). -/
def capFill (d : Dev) (c : Chan) (a : Anchor) : Dev :=
  let s := max 1 (fld d (bankOf c .cap) CAP_GSETTLE 15 0)
  let d := modCap d c fun k =>
    { k with st := .filling, anchor := some a, fires := [], hostReq := none,
             settle := if k.group = 0 then none else some (d.tb.mono + s * tapsPerUs) }
  raEvent (pendSet d c fun m => { m with trg := true }) (bankOf c .cap) (CAP_CSTS + 0x20 * c.inBank) 0x2

/-- A capture of the group takes a fire (R239). -/
def takeFire (d : Dev) (c : Chan) (at_ : Int) (ts : TS) (origin ochan : Nat) : Dev :=
  let k := (ch d c).cap
  let s := fireSample k (capP d c) at_
  let mk := fun (cause step mould mbound : Nat) =>
    (⟨s.1, at_, ts, s.2, origin, ochan, cause, 5, mould, mbound, step⟩ : Anchor)
  match k.st, k.anchor with
  | .armed, _ =>
    let d := modCap d c fun k => { k with late := decide (k.firstK.isSome) && decide (s.1 + k.post - 1 ≤ k.lastK) }
    capFill d c (mk 0x20 (counterAt d c at_) 255 255)
  | .filling, some a =>
    if k.settle.isSome && anchorBefore at_ origin ochan a then
      modCap d c fun k => { k with anchor := some (mk (a.cause ||| 0x20) (counterAt d c at_) a.mould a.mbound) }
    else
      let d := modCap d c fun k => { k with ign := satInc 0xFFFF k.ign }
      raEvent d (bankOf c .cap) (CAP_CSTS + 0x20 * c.inBank) 0x10
  | _, _ => d

/-- A fire reaches every other capture of a group on the device (R239). -/
def groupFire (d : Dev) (from_ : Option Chan) (group slgrp : Nat) (at_ : Int) (ts : TS) (origin ochan : Nat) : Dev :=
  forEach (allChans.filter fun x => decide (some x ≠ from_) && sameGroup (ch d x).cap group slgrp) d fun d x =>
    takeFire d x at_ ts origin ochan

/-- The met conditions of one trigger sample fire the capture (R237, R239): the primary cause by class, then by slot. -/
def doCaptureFire (c : Chan) (d : Dev) : Dev :=
  let k := (ch d c).cap
  let fires := k.fires.filter fun f => decide (f.k ≤ k.outNo)
  let best := fires.foldl (fun (a : Option Fire) x => match a with
    | none => some x
    | some y => if x.cls < y.cls then some x else some y) none
  match best with
  | none => d
  | some f =>
    if k.st ≠ .armed then d else
    let p := capP d c
    let at_ : Int := k.outAt + (f.k - k.outNo) * p - (f.f * capDec d c * 40 : Nat)
    let ts := tsAdd k.outTs ((f.k - k.outNo) * p - (f.f * capDec d c * 40 : Nat))
    let cause := fires.foldl (fun n x => n ||| 2 ^ x.psrc) 0
    let origin := fld d bSL SL_ADDR 9 0
    let a : Anchor := ⟨f.k, at_, ts, f.f, origin, c.val, cause, f.psrc, f.mould, f.mbound, counterAt d c at_⟩
    let mould := (fires.find? fun x => decide (x.psrc = 4)).getD f
    let d := capFill d c { a with mould := mould.mould, mbound := mould.mbound }
    if k.group = 0 then d else
    let d := groupFire d (some c) k.group k.slgrp at_ ts origin c.val
    if k.group = 9 then sendTrig d 0 k.slgrp ts c.val
    else gtPulses [(k.group - 1) % 8] d

/-- The settle window closes (R239). -/
def doSettleClose (c : Chan) (d : Dev) : Dev :=
  match (ch d c).cap.settle with
  | some t => if t ≤ d.tb.mono then modCap d c fun k => { k with settle := none } else d
  | none => d

/-- A capture that is FILLING ends DONE once its last sample is stored and its settle window has closed (R232, R239). -/
def doCaptureEnd (c : Chan) (d : Dev) : Dev :=
  let k := (ch d c).cap
  match k.anchor with
  | some a =>
    if k.st = .filling ∧ a.k + k.post - 1 ≤ k.outNo ∧ (k.settle = none ∨ k.settle = some d.tb.mono) then capEnd d c false else d
  | none => d

/-- A write of CAP_CCMDc (R233, R241): of two FIREs of an ARMED capture the first fires it. -/
def ccmdWrite (d : Dev) (c : Chan) (v : Word) : Dev :=
  match bits v 1 0 with
  | 1 => capCancel d c
  | 2 => if (ch d c).cap.st = .armed then let x := nextMod d; modCap d c fun k => { k with hostReq := k.hostReq.or (some x) } else d
  | _ => d

/-- Whether a run of pages of a channel is one CAP_CALLOCc takes (R228). -/
def allocOk (d : Dev) (c : Chan) (base n : Nat) : Bool :=
  decide (base + n ≤ 1024) && (bankChans c.bank).all fun x =>
    decide (x = c) || decide (n = 0) || decide (capPages d x = 0) || decide (base + n ≤ capBase d x)
      || decide (capBase d x + capPages d x ≤ base)

/-- A remote fire or arm reaches the field side (R238, R239, R318). -/
def trigCapture (d : Dev) (m : TrigMsg) : Dev :=
  if m.kind = 0 then
    let now := fieldNow d
    groupFire d none 9 m.group.toNat ((d.tb.mono : Int) + tsDiff m.ts now) m.ts m.origin.val m.ochan.toNat
  else if m.kind = 1 then
    let a := nextMod d
    forEach (allChans.filter fun x => decide ((ch d x).cap.st = .primed) && sameGroup (ch d x).cap 9 m.group.toNat) d fun d x =>
      modCap d x fun k => { k with armGrp := some a }
  else d

end Sys2Proof.Machine
end

