-- ==== Sys2Proof/Machine/MachineCmd.lean ====
section
/-! DEFINITION. Commands to Autis machines and to the program store: START, STOP, ABORT, CLEAR, nudges, COMMIT and RELEASE (R176, R195 to R201), scheduled commands (R223 to R226, R444), and the SEAL, EIS and PULSE instructions. -/

namespace Sys2Proof.Machine

open Sys2Proof

/-! ### START (R199) -/

/-- Whether a machine counts as in IDLE, HALT or SAFEHALT (R199). -/
def machStopped (m : Mach) : Bool := decide (m.st ∈ [.idle, .halt, .safehalt]) && m.startReq.isNone

/-- What refuses a START of a slot and entry (R199): 0 when nothing does. -/
def startCause (d : Dev) (c : Chan) (slot entry : Nat) : Nat :=
  if !machStopped (ch d c).mach then 1
  else if !slotValid d c.bank slot then 2
  else if slotEntries d c.bank slot ≤ entry then 3
  else if !flag d (chBlk c) CH_CTRL 0 then 4
  else if hasFault d c then 5
  else if !coloStartRoom d c then 6
  else 0

/-- A refused START: SREF with its cause (R199). -/
def startRefuse (d : Dev) (c : Chan) (cause : Nat) : Dev := setFld (raEvent d (chBlk c) CH_ASTS 0x40) (chBlk c) CH_ASTS 20 17 cause

/-- An accepted START waits for the machine's first issue slot from `slot` elapsed taps on (R199). -/
def startWait (d : Dev) (c : Chan) (v : Word) (sch : Bool) (slot : Nat) : Dev :=
  raEvent (modMach d c fun m => { m with startReq := some v, startSch := sch, slotFrom := slot }) (chBlk c) CH_ASTS 0x2

/-- A START of a slot and entry is accepted or refused (R199): it takes effect in the first issue slot after the next modulator sample
boundary. -/
def startReq (d : Dev) (c : Chan) (slot entry : Nat) : Dev :=
  let k := startCause d c slot entry
  if k ≠ 0 then startRefuse d c k
  else
    let v : Word := BitVec.ofNat 32 (entry * 0x800 + slot * 0x80 + 1)
    startWait d c v false (nextMod d + 1)

/-- The machine as START sets it up (R186, R199): the parameters in W0 to W7, no flag, empty stacks, an empty set-up, no pending
condition, the PC at the entry's body offset. The level conditions of the latest snapshot are never cleared (R176). -/
def startedMach (m : Mach) (slot : Nat) (pars : Nat → Word) (pc : Nat) : Mach :=
  { m with st := .run, pc := pc, w := Vector.ofFn fun i => if i.val < 8 then pars i.val else 0, z := false, n := false, c := false,
           v := false, calls := [], loops := [], setup := {}, counter := 0, ev := 0, trg := false, und := false, mld := false,
           dfr := false, snap := { gt := m.snap.gt, cmpv := m.snap.cmpv, cmpi := m.snap.cmpi }, wait := .none, sealAt := none, slot := some ⟨slot % 16, Nat.mod_lt _ (by decide)⟩, startReq := none,
           startSch := false, abortReq := false, step := none, queued := none, prevMode := none, prevDrive := none, lastLen := 0,
           lastQs := 0, lastEs := 0, playing := none, queue := [], itemAt := none, provs := [], replaced := none, passed := [] }

/-- An accepted START takes effect in the machine's first issue slot after its boundary, to which time passes and which it takes (R199,
R392). -/
def doStartEffect (m : Mem) (c : Chan) (d : Dev) : Dev :=
  match (ch d c).mach.startReq with
  | none => d
  | some v =>
    let d := slotTaken (toSlot d c) c 1
    let slot := bits v 10 7
    let entry := bits v 15 11
    let pc := progWord m c.bank (slotBase d c.bank slot + 16 + entry) % 65536
    let pars := fun n => rd d (chBlk c) (CH_APAR + 4 * n)
    let d := capStart (coloStart m d c slot entry) c
    let d := wr (wr d (chBlk c) CH_TERM 0) (bankOf c .mld) (MLD_BIND + 4 * c.inBank) 0
    let d := wr d (bankOf c .mld) (MLD_VIOL + 4 * c.inBank) 0
    let d := counterNote (restBreak d c.bank) c
    modMach d c fun k => startedMach k slot pars pc

/-! ### The program store (R195, R198) -/

/-- Whether a program store word lies inside a committed image (R198). -/
def inImage (d : Dev) (b : Bank) (i : Nat) : Bool :=
  (List.range 16).any fun s => slotValid d b s && decide (slotBase d b s ≤ i) && decide (i < slotBase d b s + slotWords d b s)

/-- The words of an image that its digest covers, as bytes (R195). -/
def imageBytes (m : Mem) (b : Bank) (base n : Nat) : List Byte :=
  (((List.range n).filter fun i => decide (i < 4 ∨ 12 ≤ i)).map fun i => leBytes 8 (progWord m b (base + i))).flatten

/-- The result of a commit (R198): 0 OK, else the first check that fails as BK_PSTS.RESULT numbers it. -/
def commitResult (m : Mem) (d : Dev) (b : Bank) (base slot : Nat) : Nat :=
  let h := progWord m b base
  let w1 := progWord m b (base + 1)
  let nent := iw w1 37 32
  let len := iw w1 31 0
  let n := 16 + nent + len
  if slotValid d b slot then 5
  else if h / 0x100000000 ≠ 0x41555453 ∨ iw h 31 24 ≠ 1 then 1
  else if nent = 0 ∨ 32 < nent ∨ len = 0 ∨ 65536 < base + n
      ∨ (List.range 16).any (fun s => slotValid d b s && decide (slotBase d b s < base + n)
          && decide (base < slotBase d b s + slotWords d b s)) then 2
  else if iw h 23 16 ≠ 1 ∧ iw h 23 16 ≠ 2 then 4
  else if (List.range n).any (fun i => (bk d b).seq.eccWords.contains (base + i)) then 8
  else if shaBytes (imageBytes m b base n) ≠ ((List.range 8).map fun i => leBytes 8 (progWord m b (base + 4 + i))).flatten then 3
  else 0

/-- BK_PSTS takes the result of a command and its accession number advances. -/
def pstsResult (d : Dev) (b : Bank) (slot res : Nat) : Dev :=
  let k : Blk := .bank b .bk
  let d := setFld (setFld (setFld d k BK_PSTS 16 16 0) k BK_PSTS 15 12 slot) k BK_PSTS 3 0 res
  raEvent d k BK_PSTS 0

/-- A commit completes (R198): a successful one makes the slot valid. -/
def doCommitDone (m : Mem) (b : Bank) (d : Dev) : Dev :=
  match (bk d b).seq.commit with
  | none => d
  | some v =>
    let base := bits v 31 16
    let slot := bits v 11 8
    let r := commitResult m d b base slot
    let k : Blk := .bank b .bk
    let w1 := progWord m b (base + 1)
    let d := modSeq d b fun q => { q with commit := none }
    let d := if r = 0 then
        wr (wr d k (BK_IMG_A + 8 * slot) (BitVec.ofNat 32 (base * 65536 + 0x8000 + iw (progWord m b base) 23 16)))
          k (BK_IMG_B + 8 * slot) (BitVec.ofNat 32 (iw w1 37 32 * 65536 + iw w1 15 0))
      else d
    pstsResult d b slot r

/-- A slot is released (R198): refused while a machine that was started from it is in RUN, STEP or WAIT. -/
def progRelease (d : Dev) (b : Bank) (slot : Nat) : Dev :=
  let k : Blk := .bank b .bk
  if !slotValid d b slot then pstsResult d b slot 7
  else if (bankChans b).any (fun c => decide ((ch d c).mach.st ∈ [.run, .step, .wait])
      && decide ((ch d c).mach.slot.map (fun s => s.val) = some slot)) then pstsResult d b slot 6
  else pstsResult (wr (wr d k (BK_IMG_A + 8 * slot) 0) k (BK_IMG_B + 8 * slot) 0) b slot 0

/-- A write of BK_PCTL (R198): CMD 1 COMMIT, 2 RELEASE; refused with ACCERR while a commit runs. -/
def pctlWrite (d : Dev) (p : Port) (b : Bank) (al : Nat) (v : Word) : Dev :=
  let k : Blk := .bank b .bk
  if (bk d b).seq.commit.isSome then accErr d p k (BK_PCTL + 0x4000 * al) 1
  else match bits v 1 0 with
    | 1 => setFlag (modSeq d b fun q => { q with commit := some v }) k BK_PSTS 16 true
    | 2 => progRelease d b (bits v 11 8)
    | _ => d

/-! ### Scheduled commands (R223 to R226, R444) -/

/-- The offset at which a port's own copy of BK registers 0x0300 to 0x031C is held (R223). -/
def schOff (p : Port) (off : Nat) : Nat := 0x2000 + 0x100 * (portNo p).val + (off - 0x300)

/-- A port's staged register of a bank. -/
def schReg (d : Dev) (p : Port) (b : Bank) (off : Nat) : Word := rd d (.bank b .bk) (schOff p off)

/-- BK_SCH_MINLEAD in µs for a port (R224). -/
def minLead : Port → Nat
  | .slU => 500
  | .slD => 500
  | .msp => 1000
  | .dbg => 1000

/-- The instant in taps of a line time predicted from the running cycle's length (R224). -/
def ltPredict (d : Dev) (lt : Nat) : Int :=
  let l := d.tb.fl
  l.start + ((lt / 65536 : Nat) - (l.cyc : Int)) * lineLenOf l + ((lt % 65536 * lineLenOf l + 65535) / 65536 : Nat)

/-- The lead of a line time in taps: its predicted instant minus now (R224). -/
def schLead (d : Dev) (lt : Nat) : Int := ltPredict d lt - sinceStart d.tb.fl (fieldNow d) - d.tb.fl.start

/-- The modulator sample boundary at or after an instant in taps, as a count of boundaries (R223). -/
def modIdx (t : Int) : Int := (t + 10239) / 10240

/-- The first reason that refuses a submission, or 0 (R224, R444). -/
def schReason (d : Dev) (p : Port) (b : Bank) : Nat :=
  let cmd := schReg d p b BK_SCH_CMD
  let kind := bits cmd 3 0
  let tag := bits cmd 31 16
  let mask := (schReg d p b BK_SCH_MASK).toNat
  let lt := (schReg d p b BK_SCH_LT_LO).toNat + 0x100000000 * (schReg d p b BK_SCH_LT_HI).toNat
  let cs := maskChans b mask
  let pend := (bk d b).seq.pending
  let lead := fun (l : Nat) => decide (schLead d l < ((minLead p * tapsPerUs : Nat) : Int))
  if kind = 0 ∨ 5 < kind then 2
  else if kind = 5 then
    let hits := pend.filter fun s => decide (s.tag = tag)
    if hits.any (fun s => lead s.lt) then 1 else if hits = [] then 9 else 0
  else if mask = 0 ∨ 2 ^ 24 ≤ mask ∨ lineLenOf d.tb.fl ≤ (lt % 65536 * lineLenOf d.tb.fl + 65535) / 65536 then 2
  else if fld d (.bank b .bk) BK_FLEVEL 31 0 < bits (schReg d p b BK_SCH_ARG) 7 0 then 3
  else if kind = 1 ∧ (!slotValid d b (bits cmd 10 7) ∨ slotEntries d b (bits cmd 10 7) ≤ bits cmd 15 11) then 4
  else if lead lt then 1
  else if cs.any (fun c => isFollower d c) ∨ (kind = 1 ∧ cs.any fun c =>
      !flag d (chBlk c) CH_CTRL 0 || hasFault d c || !machStopped (ch d c).mach) then 5
  else if cs.any (fun c => (ch d c).mach.startReq.isSome || pend.any fun s =>
      decide (s.chan.val = c.inBank) && (decide (s.kind = 1) || decide (modIdx (ltInstant d s.lt) = modIdx (ltInstant d lt)))) then 7
  else if 64 < pend.length + cs.length then 6
  else
    let bp := ledBus d.led.etaC d.led.etaD (schReg d p b BK_SCH_PWR).toInt
    if kind = 1 ∧ schReg d p b BK_SCH_PWR ≠ 0 ∧ !ledReserveFits d (bp * cs.length) (ltInstant d lt) then 8 else 0

/-- The entries that an accepted submission adds to the schedule (R224). -/
def schEntries (d : Dev) (p : Port) (b : Bank) : List Sched :=
  let cmd := schReg d p b BK_SCH_CMD
  let lt := (schReg d p b BK_SCH_LT_LO).toNat + 0x100000000 * (schReg d p b BK_SCH_LT_HI).toNat
  let bp := if bits cmd 3 0 = 1 then ledBus d.led.etaC d.led.etaD (schReg d p b BK_SCH_PWR).toInt else 0
  (maskChans b (schReg d p b BK_SCH_MASK).toNat).map fun c =>
    { lt := lt, kind := bits cmd 3 0, chan := ⟨c.inBank % 24, Nat.mod_lt _ (by decide)⟩, tag := bits cmd 31 16, cmd := cmd, pwr := bp }

/-- A write of 1 to BK_SCH_GO decides the staged command (R224); its result appears in the port's BK_SCH_RES. While the field side is
not up, the reason is STATE (R405). -/
def schSubmit (d : Dev) (p : Port) (b : Bank) : Dev :=
  let cmd := schReg d p b BK_SCH_CMD
  let r := if !flag d bDEV DEV_STS 17 then 5 else schReason d p b
  let d := if r ≠ 0 then d
    else if bits cmd 3 0 = 5 then modSeq d b fun q => { q with pending := q.pending.filter fun s => decide (s.tag ≠ bits cmd 31 16) }
    else let es := schEntries d p b; modSeq d b fun q => { q with pending := q.pending ++ es }
  let old := rd d (.bank b .bk) (schOff p BK_SCH_RES)
  wr d (.bank b .bk) (schOff p BK_SCH_RES)
    (BitVec.ofNat 32 ((bits old 31 24 + 1) % 256 * 0x1000000 + bits cmd 31 16 * 0x100 + r))

/-! ### STOP, ABORT, CLEAR and nudges (R176, R200) -/

/-- A running step that waits in the deferral queue ends at once with ABORT (R276); another that runs ends at the next control sample
boundary. One that is still to start does not run. -/
def abortStep (d : Dev) (c : Chan) : Dev :=
  if stepDeferred d c then endStep d c 0x08 0
  else modMach d c fun m => { m with abortReq := match m.step with | some s => s.started | none => false }

/-- STOP (R200): the machine stops in its next issue slot, to which time passes. A HALT or FAULT that it issues there leaves its own state and
code (R201). A step that has not started does not start. -/
def machStop (m : Mem) (d : Dev) (c : Chan) : Dev :=
  if (ch d c).mach.st ∉ [.run, .step, .wait] then d else
  let d := toSlot d c
  let d := match (ch d c).mach.step with
    | some s => if s.started || stepDeferred d c then abortStep d c else dropStep d c
    | none => d
  let w := pcWord m d c
  let own := canIssue d c && !(ch d c).mach.ecc && decide ((ch d c).mach.pc < bodyLen d c)
  if own && isOp 0x0B w then doHalt m c d
  else if own && isOp 0x3F w then doFaultInstr m c d
  else
    let d := modMach (ledgerStop (slotTaken d c 1) c) c fun m => { m with st := .halt, wait := .none, queued := none }
    setFld (raEvent d (chBlk c) CH_ASTS 0x8) (chBlk c) CH_APC 31 16 0xFFFF

/-- ABORT (R200): without a running step it has no effect. -/
def machAbort (d : Dev) (c : Chan) : Dev := if (ch d c).mach.step.isSome then abortStep d c else d

/-- CLEAR (R200). -/
def machClear (d : Dev) (c : Chan) : Dev :=
  if (ch d c).mach.st ∈ [.fault, .halt, .safehalt] ∧ (ch d c).mach.startReq = none then modMach d c fun m => { m with st := .idle } else d

/-- EVn of the set bits become pending (R176). -/
def machNudge (d : Dev) (c : Chan) (evs : Nat) : Dev := pendSet d c fun m => { m with ev := m.ev ||| (evs % 256) }

/-- How long ago the execution boundary of a pending command was, in taps: the modulator sample boundary at or after its line time (R223). -/
def schAge (d : Dev) (s : Sched) : Int := tsDiff (fieldNow d) (tsOfTaps (modIdx (ltInstant d s.lt) * 10240))

/-- Whether the execution boundary of a pending command lies less than `w` taps back, or is now. -/
def schDue (d : Dev) (s : Sched) (w : Int) : Bool := decide (0 ≤ schAge d s) && decide (schAge d s < w)

/-- The pending command of a kind whose boundary a channel has reached. -/
def schFind (d : Dev) (c : Chan) (kind : Nat) (w : Int) : Option Sched :=
  (bk d c.bank).seq.pending.find? fun s => decide (s.chan.val = c.inBank) && decide (s.kind = kind) && schDue d s w

/-- Why an accepted START is dropped at its execution boundary, as an SCAUSE, or 0 (R225). -/
def schStartDrop (d : Dev) (c : Chan) (s : Sched) : Nat :=
  if isFollower d c || !machStopped (ch d c).mach then 1
  else if !slotValid d c.bank (bits s.cmd 10 7) then 2
  else if !flag d (chBlk c) CH_CTRL 0 then 4
  else if !coloStartRoom d c then 6
  else if s.safe then 7
  else 0

/-- Executes or drops the pending command of a kind of a channel (R223, R225). -/
def schExec (d : Dev) (c : Chan) (kind : Nat) (w : Int) (f : Dev → Sched → Dev) : Dev :=
  match schFind d c kind w with
  | none => d
  | some s =>
    let d := modSeq d c.bank fun q => { q with pending := q.pending.erase s }
    let cause := if kind = 1 then schStartDrop d c s
      else b2n (s.safe || !flag d (chBlk c) CH_CTRL 0 || isFollower d c)
    if cause = 0 then f d s
    else
      let d := bump d (.bank c.bank .bk) BK_SCH_DROP
      if kind = 1 then startRefuse d c cause else d

/-- A scheduled START: its reservation stands, and it takes effect in the next issue slot (R223, R273). -/
def schStart (d : Dev) (c : Chan) (s : Sched) : Dev :=
  let v : Word := BitVec.ofNat 32 (bits s.cmd 15 11 * 0x800 + bits s.cmd 10 7 * 0x80 + 1)
  startWait (ledgerReserve d c s.pwr) c v true (d.tb.mono + 1)

/-- A scheduled NUDGE (R223). -/
def schNudge (d : Dev) (c : Chan) (s : Sched) : Dev := machNudge d c (2 ^ bits s.cmd 6 4)

/-- The scheduled commands of a channel whose execution boundary lies in the present timing-clock period act before a register command of
that period (R226). -/
def schFirst (m : Mem) (d : Dev) (c : Chan) : Dev :=
  let d := schExec d c 1 160 fun d s => schStart d c s
  let d := schExec d c 2 160 fun d _ => machStop m d c
  let d := schExec d c 3 160 fun d _ => machAbort d c
  schExec d c 4 160 fun d s => schNudge d c s

/-- A machine command written to CH_ACTL through the normal or set alias `al` (R199, R200); one to a follower is ignored (R29). -/
def actlWrite (m : Mem) (d : Dev) (p : Port) (c : Chan) (al : Nat) (v : Word) : Dev :=
  let d := schFirst m d c
  if isFollower d c then accErr d p (bankOf c .bk) (CH_ACTL + 0x4000 * al) 1
  else match bits v 3 0 with
    | 1 => startReq d c (bits v 10 7) (bits v 15 11)
    | 2 => machStop m d c
    | 3 => machAbort d c
    | 4 => machClear d c
    | _ => accErr d p (chBlk c) (CH_ACTL + 0x4000 * al) 1

/-- A write of CH_AEV.SET (R176). -/
def aevWrite (m : Mem) (d : Dev) (p : Port) (c : Chan) (al : Nat) (v : Word) : Dev :=
  let d := schFirst m d c
  if isFollower d c then accErr d p (bankOf c .bk) (CH_AEV + 0x4000 * al) 1 else machNudge d c (bits v 7 0)

/-! ### SEAL, EIS and PULSE (R188, R392) -/

/-- A SEAL in the same issue slot as a safe-state entry that came before it closes its Colophon first: without the entry's SAFE and its
TERM (R397). -/
def sealFirst (m : Mem) (c : Chan) (d : Dev) : Dev :=
  match (ch d c).mach.sealAt with
  | none => d
  | some (t, had, term) =>
    let pc := (ch d c).mach.pc
    if t = d.tb.mono ∧ atSlot d c ∧ pc < bodyLen d c ∧ !(ch d c).mach.ecc ∧ isOp0 0x3E true (pcWord m d c) ∧ coloSealRoom d c then
      let now := rd d (chBlk c) CH_TERM
      let d := modCh d c fun k => { k with colo := k.colo.map fun o => if had then o else { o with flags := o.flags - (o.flags &&& 0x80) } }
      let d := coloSeal m (wr d (chBlk c) CH_TERM term) c
      modMach (nextPc (slotTaken (coloFlag (wr d (chBlk c) CH_TERM now) c 0x80) c 1) c) c fun m => { m with sealAt := none }
    else d

/-- SEAL (R392): when the spool lacks the space its body needs, the machine waits (R23). -/
def doSeal (m : Mem) (c : Chan) (d : Dev) : Dev :=
  if !canIssue d c then sealFirst m c d else issue m d c (isOp0 0x3E true) fun d _ =>
    if coloSealRoom d c then .ok (nextPc (coloSeal m d c) c)
    else .ok (modMach d c fun k => { k with st := .wait, wait := .sealing })

/-- A SEAL that waits for spool space completes (R23). -/
def doSealSpace (m : Mem) (c : Chan) (d : Dev) : Dev :=
  if (ch d c).mach.wait = .sealing ∧ coloSealRoom d c then
    modMach (nextPc (coloSeal m d c) c) c resumed
  else d

/-- EIS (R188, R252): a profile that is not enabled is not held. -/
def doEis (m : Mem) (c : Chan) (d : Dev) : Dev :=
  issue m d c (isOp0 0x3C false) fun d w =>
    let p := fImm w 3 0
    stepIssue d c [(!bit (eisReg d c.bank p EIS_CFG0) 31, 10)] (.eis ⟨p % 16, Nat.mod_lt _ (by decide)⟩)

/-- PULSE (R188, R262): the amplitude is signed, the duration unsigned. -/
def doPulse (m : Mem) (c : Chan) (d : Dev) : Dev :=
  issue m d c (isOp0 0x3C true) fun d w =>
    let q := fImm w 3 0
    let k := (ch d c).mach
    stepIssue d c [(decide (fD w % 2 = 1), 7), (!bit (plsReg d c.bank q PLS_CFG) 31, 10)]
      (.pulse (fD w) (wReg k (fA w)).toInt (wReg k (fB w)).toNat ⟨q % 16, Nat.mod_lt _ (by decide)⟩)

/-- LEDGERTO (R276): a request past its deferral limit ends its step. -/
def doLedgerto (c : Chan) (d : Dev) : Dev :=
  match reqOf d.led.expired c with
  | none => d
  | some _ => endStep (bump (raEvent d bLED LED_STS 0x4) bLED LED_TO_CNT) c 0x09 0

end Sys2Proof.Machine
end

