-- ==== Sys2Proof/Machine/Force.lean ====
section
/-! DEFINITION. The force path: PWM periods and the dead-time tracker (R71 to R79), the control modes, the limit stages and the loop engine (R80 to R92), locked groups (R27 to R31, R93 to R96), bank enable and bank fault (R97 to R99), and enabling and disabling a channel (R100 to R102). -/

namespace Sys2Proof.Machine

open Sys2Proof

/-! ### Settings of a channel, taken from its group's leader (R69, R94) -/

/-- Whether a channel drives linearly. -/
def isLinear (d : Dev) (c : Chan) : Bool := flag d (chBlk (leadOf d c)) CH_CTRL 1

/-- PER of a channel in taps. -/
def pwmPer (d : Dev) (c : Chan) : Nat := max 1 (fld d (chBlk (leadOf d c)) CH_PWM_PER 20 0)

/-- The number of members of a channel's group, 1 for a channel in no group. -/
def grpSize (d : Dev) (c : Chan) : Nat := max 1 (members d c).length

/-- The phase of a channel in taps: PH modulo PER, and for follower k of a group of N the offset ⌊k PER ÷ N⌋ more (R30, R71). -/
def pwmPhase (d : Dev) (c : Chan) : Nat :=
  let l := leadOf d c
  fld d (chBlk l) CH_PWM_PH 20 0 + (c.val - l.val) * pwmPer d c / grpSize d c

/-- DTMIN of a channel. -/
def dtMin (d : Dev) (c : Chan) : Nat := fld d (chBlk (leadOf d c)) CH_DT_LIM 15 0
/-- DTMAX of a channel. -/
def dtMax (d : Dev) (c : Chan) : Nat := fld d (chBlk (leadOf d c)) CH_DT_LIM 31 16

/-- Whether an instant is a period boundary of a channel (R71). -/
def isPwmBoundary (d : Dev) (c : Chan) (t : TS) : Bool :=
  decide (((extTaps d t : Int) - pwmPhase d c) % (pwmPer d c : Nat) = 0)

/-! ### The dead-time tracker (R75 to R79) -/

/-- The wanted dead time of a commutation and whether DTCLAMP is set: `dly` is its measured delay, `dt` the command dead time of its
period (R75, R76). -/
def wantedDt (d : Dev) (c : Chan) (dly : Option Nat) (dt : Nat) : Nat × Bool :=
  let guard := fld d (chBlk c) CH_DT_TGT 25 16
  let lo := dtMin d c + guard
  let hi := dtMax d c
  let w := match dly with
    | some x => if x < dt then x + fld d (chBlk c) CH_DT_TGT 11 0 + guard else lo
    | none => lo
  let cw := min hi (max lo w)
  (cw, decide (cw ≠ w) || decide (hi < lo))

/-- The next command dead time: it widens at once and narrows by one tap (R77). -/
def nextDt (w dt : Nat) : Nat := if w < dt then dt - 1 else w

/-- The duty clamped to the range in which both switches commutate (R73). -/
def clampDuty (d : Dev) (c : Chan) (dta dtb x : Nat) : Nat :=
  let ton := fld d (chBlk c) CH_TONMIN 15 0
  min (pwmPer d c - dtb - ton) (max (dta + ton) x)

/-- A delay as CH_DT_MEAS shows it: 0xFFFF for a hard commutation. -/
def dlyShown (dly : Option Nat) (dt : Nat) : Nat := match dly with | some x => if x < dt then x else 0xFFFF | none => 0xFFFF

/-- The tracker after a period (R75 to R77, R79). -/
def trackPeriod (d : Dev) (c : Chan) : Dev :=
  let f := (ch d c).force
  let dta := fld d (chBlk c) CH_DT_CMD 15 0
  let dtb := fld d (chBlk c) CH_DT_CMD 31 16
  let wa := wantedDt d c f.dMeasBA f.perDt.1
  let wb := wantedDt d c f.dMeasAB f.perDt.2
  let quiet := if f.swtSeen then 0 else f.swtQuiet + 1
  let ab := f.dMeasAB.filter fun x => decide (x < f.perDt.2)
  let ba := f.dMeasBA.filter fun x => decide (x < f.perDt.1)
  let d := modTim d c fun x => { x with sumAB := x.sumAB + ab.getD 0, nAB := x.nAB + b2n ab.isSome,
                                        sumBA := x.sumBA + ba.getD 0, nBA := x.nBA + b2n ba.isSome }
  let d := modForce d c fun f => { f with swtQuiet := quiet, swtLost := f.swtLost && !f.swtSeen }
  let d := wr d (chBlk c) CH_DT_MEAS (BitVec.ofNat 32 (dlyShown f.dMeasAB f.perDt.2 * 0x10000 + dlyShown f.dMeasBA f.perDt.1))
  let d := if wa.2 || wb.2 then raEvent d (chBlk c) CH_STS 0x4 else d
  let lost := decide (16 ≤ quiet)
  let a := if lost then dtMax d c else nextDt wa.1 dta
  let b := if lost then dtMax d c else nextDt wb.1 dtb
  wr d (chBlk c) CH_DT_CMD (BitVec.ofNat 32 (b * 0x10000 + a))

/-- GUARD takes a wider target at once and approaches a narrower one by one tap per period (R366). -/
def guardStep (d : Dev) (c : Chan) : Dev :=
  let g := fld d (chBlk c) CH_DT_TGT 25 16
  let t := (ch d c).tim.guard
  setFld d (chBlk c) CH_DT_TGT 25 16 (if t < g then g - 1 else t)

/-- A PWM period begins for the edge-placing line of a channel: its edges move on by one physical tap where its table has changed (R162). -/
def tapMove (d : Dev) (c : Chan) : Dev :=
  { d with tb := { d.tb with tapOld :=
      (d.tb.tapOld.map fun x => if x.1 = 2 * c.val then (x.1, x.2.1, x.2.2 + 1) else x).filter fun x => decide (x.2.2 < 192) } }

/-- A period boundary of a channel that switches (R71, R72, R74): the period that ends is tracked, the newest duty applies with the
new dead times, clamped with them, and a period starts; a duty whose tick falls on the boundary waits for the next (R91). Before
the first duty no period starts. -/
def doPwmBoundary (c : Chan) (d : Dev) : Dev :=
  let d := tailDue d (leadOf d c)
  let f := (ch d c).force
  if f.drive ≠ .pwm ∨ !isPwmBoundary d c (fieldNow d) then d else
  let d := guardStep d c
  let d := if f.perStart.isSome then trackPeriod d c else d
  let t := fieldNow d
  let due := f.pend.filter fun x => decide (0 < tsDiff t x.1)
  let duty := (due.head?.map Prod.snd).getD f.cmd
  if due = [] ∧ f.perStart = none then d else
  let dta := fld d (chBlk c) CH_DT_CMD 15 0
  let dtb := fld d (chBlk c) CH_DT_CMD 31 16
  let x := clampDuty d c dta dtb duty
  let d := if x ≠ duty then raEvent d (chBlk c) CH_STS 0x2 else d
  modForce (wr (tapMove d c) (chBlk c) CH_DUTY (BitVec.ofNat 32 x)) c fun f =>
    { f with pend := f.pend.filter (fun x => !decide (0 < tsDiff t x.1)), cmd := duty, perStart := some t,
             perDt := (dta, dtb), dMeasAB := none, dMeasBA := none, swtSeen := false }

/-- How many taps of the running PWM period have passed at an instant, while the channel switches (R72). -/
def inPeriod (d : Dev) (c : Chan) (t : TS) : Option Nat :=
  let f := (ch d c).force
  if f.drive ≠ .pwm then none else
  match f.perStart with
  | some t0 => if 0 ≤ tsDiff t t0 ∧ tsDiff t t0 < pwmPer d c then some (tsDiff t t0).toNat else none
  | none => none

/-- The level of DRA of a channel that switches: it rises at DTA and falls at D (R70, R72). -/
def draHigh (d : Dev) (c : Chan) (t : TS) : Bool :=
  match inPeriod d c t with
  | some x => decide ((ch d c).force.perDt.1 ≤ x) && decide (x < fld d (chBlk c) CH_DUTY 20 0)
  | none => false

/-- The level of DRB of a channel that switches: it falls at the boundary and rises at D + DTB (R70, R72). -/
def drbHigh (d : Dev) (c : Chan) (t : TS) : Bool :=
  match inPeriod d c t with
  | some x => decide (fld d (chBlk c) CH_DUTY 20 0 + (ch d c).force.perDt.2 ≤ x)
  | none => false

/-- A transition on SWT stamped `t` in a running period: the first one in the expected direction after each off edge is measured (R75). -/
def swtTrack (d : Dev) (c : Chan) (rising : Bool) (t : TS) : Dev :=
  modForce d c fun f =>
    match f.perStart with
    | none => { f with swtSeen := true }
    | some t0 =>
      if tsDiff t t0 < 0 then { f with swtSeen := true } else
      let x := (tsDiff t t0).toNat
      let duty := fld d (chBlk c) CH_DUTY 20 0
      if rising then { f with swtSeen := true, dMeasBA := f.dMeasBA.or (some x) }
      else { f with swtSeen := true, dMeasAB := if duty ≤ x then f.dMeasAB.or (some (x - duty)) else f.dMeasAB }

/-- SWTLOSS after 16 periods without a transition: both command dead times are held at DTMAX (R79). -/
def doSwtLoss (c : Chan) (d : Dev) : Dev :=
  let f := (ch d c).force
  if f.drive = .pwm ∧ 16 ≤ f.swtQuiet ∧ !f.swtLost then
    let m := dtMax d c
    let d := modForce d c fun f => { f with swtLost := true }
    raEvent (wr d (chBlk c) CH_DT_CMD (BitVec.ofNat 32 (m * 0x10000 + m))) (chBlk c) CH_STS 0x40
  else d

/-- A contained fault after 256 periods without a transition (R79, R343). -/
def doSwtDead (c : Chan) (d : Dev) : Dev :=
  let f := (ch d c).force
  if f.drive = .pwm ∧ 256 ≤ f.swtQuiet then
    chanFault d c 0x0102 (locFA c 1 4) (BitVec.ofNat 32 f.swtQuiet) 0 false 0x13 0
  else d

/-! ### The loop engine (R84 to R92) -/

/-- The product of the shunt resistance in nΩ and the gain: the fast-path current LSB is 4 x 10^10 ÷ it in units of 100 nA
(R103, R105). -/
def shuntGain (d : Dev) (c : Chan) : Nat := (rd d (chBlk c) CH_SHUNT).toNat * 4 ^ min 2 (fld d (chBlk c) CH_MCFG 1 0)

/-- A current in 100 nA in fast-path LSBs; the rounding of the conversion is open (R105). -/
def curLsb (d : Dev) (c : Chan) (x : Int) : Int × Dev := meanUnits d (x * shuntGain d c) 40000000000

/-- A PI loop on an error: its output in LSBs and its integrator after the update (R92). -/
def piLoop (d : Dev) (kp ki : Nat) (e acc : Int) : (Int × Int) × Dev :=
  let acc := acc + ki * e
  let x := meanUnits d (kp * e + acc) 16777216
  ((x.1, acc), x.2)

/-- An outer loop: a voltage target in 0.25 µV against a fast-path V code (R92). -/
def outerLoop (d : Dev) (c : Chan) (target v acc : Int) : (Int × Int) × Dev :=
  let x := meanUnits d target 800
  piLoop x.2 (rd d (chBlk c) CH_KP_O).toNat (rd d (chBlk c) CH_KI_O).toNat (x.1 - v) acc

/-- |V| in fast-path LSBs, at least the 500 LSBs of 0.1 V (R84, R85). -/
def atLeastV (v : Int) : Nat := max 500 v.natAbs

/-- The demand of the control mode in LSBs, and the outer integrator of a voltage mode (R84). -/
def modeDemand (d : Dev) (c : Chan) (mode : Nat) (sp v : Int) : (Int × Option Int) × Dev :=
  match mode with
  | 0 => let x := curLsb d c sp; ((x.1, none), x.2)
  | 1 => let x := outerLoop d c sp v (ch d c).force.iCv; ((x.1.1, some x.1.2), x.2)
  | 2 =>
    let sgn : Int := if v ≤ -500 then -1 else 1
    let x := meanUnits d (sp * sgn * 500000 * shuntGain d c) (40000000000 * atLeastV v)
    ((x.1, none), x.2)
  | 3 => let x := meanUnits d (-v * 2000000000 * shuntGain d c) (40000000000 * sp.toNat); ((x.1, none), x.2)
  | _ => ((0, none), d)

/-- The stages of R85 that follow the two voltage limit loops: ILIM, PLIM and the direction of a linear stage (R82). -/
def clampStages (d : Dev) (c : Chan) (s : Setup) (v : Int) (x : Int × Nat) : (Int × Nat) × Dev :=
  let il := curLsb d c (s.ilim.getD 0)
  let pl := meanUnits il.2 (s.plim.getD 0 * 500000 * shuntGain d c) (40000000000 * atLeastV v)
  let put := fun (x : Int × Nat) (y : Int) (act : Nat) => if y = x.1 then x else (y, act)
  let x := put x (clampI (-il.1) il.1 x.1) 3
  let x := put x (clampI (-pl.1) pl.1 x.1) 4
  let x := if isLinear d c then put x (if flag d (chBlk c) CH_CTRL 4 then max 0 x.1 else min 0 x.1) 5 else x
  (x, pl.2)

/-- The group's demand at an update of its leader, or the demand of a channel in no group: mode, limit stages in order, LIMACT,
and the integrators of the outer loops (R84 to R87). -/
def formDemand (d : Dev) (c : Chan) (s : Step) (v : Int) : Dev :=
  let d := if (ch d c).force.fresh then modForce d c fun f =>
      let i := f.lastDem * 16777216; { f with iCv := i, iMax := i, iMin := i } else d
  let sp := match s.kind with
    | .eis p => let x := fresh d; (eisSetpoint x.2 c p.val (tsAdd (fieldNow d) 49152) x.1, x.2)
    | _ => (s.setpoint, d)
  let m := modeDemand sp.2 c s.mode sp.1 v
  let vmax := s.setup.vmax.getD 0
  let vmin := s.setup.vmin.getD 0
  let hi := if vmax ≤ v * 800 then
      let o := outerLoop m.2 c vmax v (ch d c).force.iMax
      if o.1.1 < m.1.1 then ((o.1.1, 1), some o.1.2, o.2) else ((m.1.1, 0), none, o.2)
    else ((m.1.1, 0), none, m.2)
  let lo := if v * 800 ≤ vmin then
      let o := outerLoop hi.2.2 c vmin v (ch d c).force.iMin
      if hi.1.1 < o.1.1 then ((o.1.1, 2), some o.1.2, o.2) else (hi.1, none, o.2)
    else (hi.1, none, hi.2.2)
  let x := clampStages lo.2.2 c s.setup v lo.1
  let dem := x.1.1
  let act := x.1.2
  let all := dem * 16777216
  let old := fld d (chBlk c) CH_STS 23 20
  let d := setFld x.2 (chBlk c) CH_STS 23 20 act
  let d := if old = 0 ∧ act ≠ 0 then raEvent d (chBlk c) CH_STS 0x8 else d
  let d := if act = 0 then d else eisLimit d c
  let vg : Int := (fld d (chBlk c) CH_VGUARD 15 0 * 4000 : Nat)
  let out := decide (vmax + vg < v * 800) || decide (v * 800 < vmin - vg)
  modForce d c fun f =>
    { f with lastDem := dem, fresh := false, vwRun := if out then f.vwRun + 1 else 0,
             iCv := if act = 0 then m.1.2.getD all else all,
             iMax := if act = 1 then hi.2.1.getD all else all,
             iMin := if act = 2 then lo.2.1.getD all else all }

/-- The first duty of a drive that starts from OPEN or from the safe state: V x PER ÷ VBUS, or PER ÷ 2 when VBUS is unknown (R88). -/
def firstDuty (d : Dev) (c : Chan) (v : Int) : Nat × Dev :=
  let per := pwmPer d c
  let vbus := fld d (bankOf c .loop) LOOP_VBUS 15 0
  let x := if vbus = 0 then meanUnits d per 2 else meanUnits d (v * per) (50 * vbus)
  (x.1.toNat, x.2)

/-- A member's share of the group demand, 1/N of the current, in the member's own LSBs (R94, R105). -/
def memberShare (d : Dev) (c : Chan) (dem : Int) : Int × Dev :=
  let l := leadOf d c
  if shuntGain d c = shuntGain d l then meanUnits d dem (grpSize d c)
  else meanUnits d (dem * shuntGain d c) (shuntGain d l * grpSize d c)

/-- The inner current loop of a channel: its output is the next duty before the clamp of R73, or the next DAC code (R86, R92, R94).
At the first update of a step the first code is 0 and the integrator keeps its value; the first duty after OPEN or the safe state is
that of R88. -/
def innerLoop (d : Dev) (c : Chan) (first : Bool) (dem v i : Int) : Nat × Dev :=
  let lin := isLinear d c
  let share := memberShare d c dem
  let e := share.1 - i
  let d := share.2
  let f := (ch d c).force
  let acc := f.iIn + (rd d (chBlk c) CH_KI_I).toNat * e
  let u := (rd d (chBlk c) CH_KP_I).toNat * e + acc
  let uc := clampI 0 (65535 * 16777216) u
  let dta := fld d (chBlk c) CH_DT_CMD 15 0
  let dtb := fld d (chBlk c) CH_DT_CMD 31 16
  if lin then
    if first then (0, d)
    else
      let code := meanUnits d uc 16777216
      (code.1.toNat, modForce code.2 c fun f => { f with iIn := if uc = u then acc else f.iIn })
  else if f.fromSafe then
    let x := firstDuty d c v
    let y := clampDuty x.2 c dta dtb x.1
    let d := if y ≠ x.1 then raEvent x.2 (chBlk c) CH_STS 0x2 else x.2
    (y, modForce d c fun f => { f with iIn := (y * 65536 * 16777216 / pwmPer d c : Nat) })
  else
    let x := (uc * pwmPer d c / (65536 * 16777216)).toNat
    let y := clampDuty d c dta dtb x
    let d := if y ≠ x then raEvent d (chBlk c) CH_STS 0x2 else d
    (x, modForce d c fun f => { f with iIn := if y = x then acc else f.iIn })

/-- The step that the loop of a channel follows: one that has ended until its last sample has played (R220), else the running one. -/
def loopStep (d : Dev) (c : Chan) : Option Step :=
  match (ch d c).mach.tail with
  | some x => some x.1
  | none => (ch d c).mach.step

/-- The play samples whose setpoint enters the loop now; the first begins the drive of its step (R212). -/
def takeLead (d : Dev) (c : Chan) : Dev :=
  let due := (ch d c).mach.lead.filter fun x => decide (x.1 ≤ d.tb.mono)
  match due.getLast? with
  | none => d
  | some (_, x) =>
    let first := !flag d (chBlk c) CH_STS 19
    let d := modMach d c fun m => { m with lead := m.lead.filter (fun y => decide (d.tb.mono < y.1)),
                                           tail := m.tail.map fun y => ({ y.1 with setpoint := x, took := true }, y.2),
                                           step := if m.tail.isSome then m.step else m.step.map fun s => { s with setpoint := x, took := true } }
    if first && mayDrive d c then forEach (members d c) d beginDrive else d

/-- A loop update of a channel (R88, R90, R94): its own sample or the mean since its last update, the demand, and the output that
its tick hands over: in OPEN, code 0 of a linear stage (R81, R84). -/
def loopUpdate (d : Dev) (c : Chan) : Dev :=
  let l := leadOf d c
  let d := if l = c then takeLead d c else d
  let f := (ch d c).force
  let raw := rd d (chBlk c) CH_FAST
  let mean := flag d (chBlk c) CH_LOOPCFG 8
  let v := if mean then meanUnits d f.avgV f.avgN else (sx 16 (bits raw 15 0), d)
  let i := if mean then meanUnits v.2 f.avgI f.avgN else (sx 16 (bits raw 31 16), v.2)
  let d := modForce i.2 c fun f => { f with avgV := 0, avgI := 0, avgN := 0 }
  let put (d : Dev) (x : Nat) (dem : Int) : Dev :=
    let t := fieldNow d
    modForce d c fun f => { f with upd := f.upd.filter (fun x => decide (tsDiff t x.tAt ≤ 49152)) ++ [⟨t, x, dem⟩] }
  let open_ (d : Dev) : Dev := if (ch d c).force.drive = .dac then put d 0 0 else d
  match loopStep d l with
  | none => open_ d
  | some s =>
    if !s.started || decide (s.mode = 4) || !flag d (chBlk c) CH_STS 19 then open_ d else
    let first := (ch d c).force.fresh
    let d := if l = c then formDemand d c s v.1 else modForce d c fun f => { f with fresh := false }
    let dem := if l = c then (ch d c).force.lastDem else (ch d l).force.grpDem
    let u := innerLoop d c first dem v.1 i.1
    modForce (put u.2 u.1 dem) c fun f => { f with fromSafe := false }

/-- A sample of the fast pair in the channel's slot of a loop frame, and the update when the frame has one (R89, R90, R106). -/
def doLoopSample (c : Chan) (fv fi : BitVec 16) (d : Dev) : Dev :=
  let t := fieldNow d
  if t.toNat % 256 ≠ 0 ∨ extPeriods d t % 256 ≠ 10 * c.inBank then d else
  let d := tailDue d (leadOf d c)
  let d := wr d (chBlk c) CH_FAST (BitVec.ofNat 32 (fi.toNat * 0x10000 + fv.toNat))
  let lim := fun (x : BitVec 16) => decide (x = 0x7FFF) || decide (x = 0x8000)
  let d := if lim fv || lim fi then raEvent d (chBlk c) CH_MSTS 0x10 else d
  let d := modForce d c fun f => { f with avgV := f.avgV + fv.toInt, avgI := f.avgI + fi.toInt, avgN := f.avgN + 1 }
  if isUpdate d c t then loopUpdate d c else d

/-- FAST_TRIM: at a loop slot of the channel, 100 ms after the last trim, the fast pair takes new offsets and gains (R106). The spec names
them without values; the codes that LOOP_SAMPLE brings are trimmed. -/
def doFastTrim (c : Chan) (d : Dev) : Dev :=
  let t := fieldNow d
  let due := match (ch d c).force.trimAt with | some x => decide (x + 100000 * tapsPerUs ≤ d.tb.mono) | none => true
  if t.toNat % 256 ≠ 0 ∨ extPeriods d t % 256 ≠ 10 * c.inBank ∨ !due then d else
  let x := fresh d
  let word (n : Nat) : Word := BitVec.ofNat 32 (Config.free x.1 / 2 ^ (32 * n))
  modForce x.2 c fun f => { f with trimAt := some x.2.tb.mono, trim := [word 0, word 1, word 2, word 3] }

/-- The loop tick of an update, 480 ns after its sample: a duty is held for the next boundary, a code appears on DRA (R81, R91). -/
def doLoopTick (c : Chan) (d : Dev) : Dev :=
  let t := fieldNow d
  let d := tailDue d (leadOf d c)
  match (ch d c).force.upd.find? fun x => decide (tsDiff t x.tAt = 49152) with
  | none => d
  | some u =>
    let d := modForce d c fun f => { f with upd := f.upd.filter (fun x => decide (tsDiff t x.tAt < 49152)), grpDem := u.dem }
    match (ch d c).force.drive with
    | .pwm => modForce d c fun f => { f with pend := ((t, u.u) :: f.pend).take 2 }
    | .dac => wr d (chBlk c) CH_DAC (BitVec.ofNat 32 u.u)
    | _ => d

/-- Ten consecutive updates outside the guarded window end the step with VWINDOW at its next boundary (R87, R192). -/
def doVwindow (c : Chan) (d : Dev) : Dev :=
  if 10 ≤ (ch d c).force.vwRun then offerEnd (raEvent d (chBlk c) CH_STS 0x10) c 0x05 0 else d

/-- The DRA current limit starts to act (R83). -/
def doDraLimit (c : Chan) (d : Dev) : Dev :=
  if (ch d c).force.drive ≠ .dac then d else
  modForce (raEvent d (chBlk c) CH_STS 0x20) c fun f => { f with sclimAt := some d.tb.mono }

/-- The DRA limit has acted for 100 µs (R83). -/
def doSclim (c : Chan) (d : Dev) : Dev :=
  match (ch d c).force.sclimAt with
  | some t => if 100 * tapsPerUs ≤ d.tb.mono - t then chanFault d c 0x0103 (locFA c 1 3) 0 0 false 0x13 0 else d
  | none => d

/-! ### Locked groups (R27, R28, R93 to R96) -/

/-- The member that a modulator sample of the group shows outside the sharing tolerance (R96): the group's sum and SHTOL x 10 mA. -/
def shareBroken (d : Dev) (l x : Chan) : Bool :=
  let tol := fld d (bankOf l .loop) (LOOP_GRP + 4 * l.inBank) 31 24
  let n := grpSize d l
  let dev := ((ch d x).meas.lastI * n - grpSum d l fun k => k.meas.lastI).natAbs
  decide (tol ≠ 0) && decide (2 ≤ n) && decide (tol * 100000 * n < dev)

/-- Each member's time outside the tolerance runs on or ends (R96). -/
def shareTrack (d : Dev) (c : Chan) : Dev :=
  let l := leadOf d c
  if grpLeader d c = none then d else
  forEach (members d l) d fun d x =>
    if shareBroken d l x then modForce d x fun f => { f with shareAt := f.shareAt.or (some d.tb.mono) }
    else modForce d x fun f => { f with shareAt := none }

/-- A member has been outside the tolerance for 1 ms: a contained fault of the group (R31, R96). -/
def doShare (c : Chan) (x : Fin 24) (d : Dev) : Dev :=
  let m := c.bank.chan x.val
  match (ch d m).force.shareAt with
  | some t =>
    if grpLeader d m = some c ∧ 1000 * tapsPerUs ≤ d.tb.mono - t then
      let d := modForce (raEvent d (bankOf c .loop) LOOP_STS 0x2) m fun f => { f with shareAt := none }
      chanFault d c 0x0109 (locFD c 7 1) (BitVec.ofNat 32 x.val)
        (BitVec.ofInt 32 ((ch d m).meas.lastI / 100000)) false 0x13 0
    else d
  | none => d

/-- The register of a channel's group. -/
def grpOff (c : Chan) : Nat := LOOP_GRP + 4 * c.inBank

/-- A write of LOOP_GRPc.N that is refused: GRPREF (R93). -/
def grpRefuse (d : Dev) (c : Chan) : Dev := raEvent d (bankOf c .loop) LOOP_STS 0x4

/-- The filter histories of a channel start afresh: its modulators have stood. -/
def filtRestart (d : Dev) (c : Chan) : Dev :=
  modCap (modMeas d c fun m => { m with filt := { m.filt with ratio := 0, hist := [] } }) c fun k => { k with ratio := 0, hist := [] }

/-- The filter sums of the current of the group that a channel leads, or of its own (R31): of the members, and what lies behind from
times when the group had other members. -/
def grpCic (d : Dev) (c : Chan) : Cic :=
  let s (f : Cic → Int) : Int := f (ch d c).meas.cicO + grpSum d c fun x => f x.meas.cicI
  ⟨s Cic.a1, s Cic.a2, s Cic.a3, s Cic.a4, s Cic.a5⟩

/-- The members of a channel's group have changed: the filters of the group's current run on from what they hold (R31, R107). -/
def grpShift (old d : Dev) (c : Chan) : Dev :=
  let a := grpCic old c
  let s (f : Cic → Int) : Int := f a - grpSum d c fun x => f x.meas.cicI
  modMeas d c fun m => { m with cicO := ⟨s Cic.a1, s Cic.a2, s Cic.a3, s Cic.a4, s Cic.a5⟩ }

/-- A channel in its safe state holds its lands in the drive mode that now applies to it (R69, R70). -/
def landsAgain (d : Dev) (m : Chan) : Dev := if flag d (chBlk m) CH_STS 18 && d.pwr.fup then safeLands d m else d

/-- The group that a channel leads is dissolved (R93, R95). -/
def grpDissolve (d : Dev) (c : Chan) : Dev :=
  let ms := members d c
  let old := d
  let d := setFld d (bankOf c .loop) (grpOff c) 3 0 0
  grpShift old (forEach ms d fun d m =>
    landsAgain (setFlag (setFld d (bankOf m .loop) (grpOff m) 20 16 31) (chBlk m) CH_CTRL 0 false) m) c

/-- The channels a group of N led by c would hold. -/
def grpWanted (c : Chan) (n : Nat) : List Chan := (List.range n).map fun k => c.bank.chan (c.inBank + k)

/-- Whether a group of N led by c may form (R27, R28, R93): its channels exist, are disabled and belong to no other group. -/
def grpMayForm (d : Dev) (c : Chan) (n : Nat) : Bool :=
  decide (c.inBank + n ≤ 24) && (grpWanted c n).all fun m =>
    !flag d (chBlk m) CH_CTRL 0 && (grpLeader d m == none || grpLeader d m == some c)

/-- Whether a channel leads a group. -/
def leadsGrp (d : Dev) (c : Chan) : Bool := grpLeader d c == some c

/-- A write of LOOP_GRPc.N that has no effect (R93). -/
def grpRefused (d : Dev) (c : Chan) (n : Nat) : Bool :=
  isFollower d c || decide (9 ≤ n) || if n ≤ 1 then leadsGrp d c && flag d (chBlk c) CH_CTRL 0 else !grpMayForm d c n

/-- A write of LOOP_GRPc.N (R93). DESIGN CHOICE (log 100): a write of 2 to 8 to a channel that leads a group dissolves that group and
forms the new one. -/
def grpWrite (d : Dev) (c : Chan) (n : Nat) : Dev :=
  if grpRefused d c n then grpRefuse d c
  else if n ≤ 1 then if leadsGrp d c then grpDissolve d c else d
  else
    let d := if leadsGrp d c then grpDissolve d c else d
    let old := d
    let d := setFld d (bankOf c .loop) (grpOff c) 3 0 n
    let d := forEach (grpWanted c n) d fun d m => setFld d (bankOf m .loop) (grpOff m) 20 16 c.inBank
    forEach (grpWanted c n) (grpShift old d c) landsAgain

/-! ### Bank enable and bank fault (R97 to R99) -/

/-- The level of BKn_EN (R97). -/
def bkEn (d : Dev) (b : Bank) : Bool :=
  flag d (.bank b .loop) LOOP_CTL 0 && !flag d (.bank b .loop) LOOP_STS 0 && !flag d (.bank b .loop) LOOP_STS 16
    && d.pwr.filk && !d.xc.autoSafe && d.pwr.fatal.isNone && d.pwr.fup

/-- The start delay of a bank ends: steps that wait for it begin to drive (R98). -/
def endlyEnd (d : Dev) (b : Bank) : Dev :=
  let d := modSeq d b fun q => { q with endlyAt := none }
  forEach (bankChans b) d fun d c =>
    match (ch d c).mach.step with
    | some s =>
      if s.started && stepDrives (ch d c).mach s.kind && (decide (s.kind ≠ .wave) || s.took) && !flag d (chBlk c) CH_STS 19 && mayDrive d c then
        forEach (members d c) d beginDrive
      else d
    | none => d

/-- BKn_EN takes the level its conditions give; when it rises the start delay runs (R97, R98). -/
def bkSettle (d : Dev) (b : Bank) : Dev :=
  let now := bkEn d b
  let was := (bk d b).seq.enWas
  let d := modSeq d b fun q => { q with enWas := now }
  if now && !was then
    let dly := fld d (.bank b .loop) LOOP_ENDLY 15 0
    let d := modSeq d b fun q => { q with endlyAt := some (d.tb.mono + dly * tapsPerUs) }
    if dly = 0 then endlyEnd d b else d
  else if now then d else modSeq d b fun q => { q with endlyAt := none }

/-- Every bank's BKn_EN takes its level. -/
def bkSettleAll (d : Dev) : Dev := forEach allBanks d bkSettle

/-- LOOP_CTL.BKEN is set (R97), unless BKn_FLT acts in the same period, when BKEN stays cleared and BKFLT is set (R102), or another
protective clear does in the same cycle (R47). -/
def bankEnable (d : Dev) (b : Bank) : Dev :=
  if (bk d b).seq.bfltAt = some (d.tb.mono / 160) then raEvent d (.bank b .loop) LOOP_STS 0x1
  else if (maskIn d.cleared (regKey (.bank b .loop) LOOP_CTL)).testBit 0 then d
  else bkSettle (modSeq (setFlag d (.bank b .loop) LOOP_CTL 0 true) b fun q => { q with bkenAt := some (d.tb.mono / 160) }) b

/-- LOOP_CTL.BKEN is cleared: the bank's channels go safe with BANKFLT (R101, R192). -/
def bankDisable (d : Dev) (b : Bank) : Dev :=
  bkSettle (safeBank (setFlag d (.bank b .loop) LOOP_CTL 0 false) b 0x15) b

/-- The start delay ends (R98). -/
def doEndlyExpiry (b : Bank) (d : Dev) : Dev :=
  match (bk d b).seq.endlyAt with
  | some t => if t ≤ d.tb.mono then endlyEnd d b else d
  | none => d

/-- BKn_FLT has been sampled high in every timing-clock period since `since` (R99): when these are DEGL + 1 periods and no low sample lies
among them, FLTIN becomes 1. While BKn_EN is high, or when BKEN was set in this period (R102), the bank shuts down. -/
def doBankFlt (b : Bank) (since : TS) (d : Dev) : Dev :=
  let k : Blk := .bank b .loop
  let n := (fieldNow d).toNat / 256 - since.toNat / 256
  let per := d.tb.mono / 160
  let low := (bk d b).seq.fltLow.any fun x => decide (per ≤ x + n)
  if flag d k LOOP_STS 16 ∨ (fieldNow d).toNat / 256 < since.toNat / 256 ∨ n < fld d k LOOP_FLTCFG 7 0 ∨ low then d else
  let hit := bkEn d b || decide ((bk d b).seq.bkenAt = some per)
  let d := modSeq (setFlag d k LOOP_STS 16 true) b fun q => { q with bfltAt := some per }
  if !hit then d else
  let d := safeBank d b 0x15
  let d := protClear (raEvent d k LOOP_STS 0x1) k LOOP_CTL 0
  bkSettle (raise d k 0x0201 (locBankFA b 1 0) 0 0 true) b

/-- The first period that samples BKn_FLT low (R99). -/
def doBankFltLow (b : Bank) (d : Dev) : Dev :=
  let d := modSeq d b fun q => { q with fltLow := some (d.tb.mono / 160) }
  bkSettle (unlive (setFlag d (.bank b .loop) LOOP_STS 16 false) (.bank b .loop) 0x0201) b

/-! ### Enabling and disabling a channel (R100, R101) -/

/-- What refuses an enable of a channel: ENCAUSE, or 0 (R100). The settings are those of the leader of its group; TONMIN is each
member's own (R69). DESIGN CHOICE (log 100): of several causes the one with the lowest number is recorded, and an enable of a group asks
for VALID of every member. -/
def enCause (d : Dev) (c : Chan) : Nat :=
  if !(members d c).all (fun m => flag d (bankOf c .cmp) (CMP_STS + 0x20 * m.inBank) 20) then 1
  else if !bkEn d c.bank then 2
  else if !isLinear d c && (members d c).any (fun m => decide (pwmPer d c < 2 * (dtMax d c + fld d (chBlk m) CH_TONMIN 15 0))) then 3
  else if dtMax d c < dtMin d c then 4
  else if (members d c).any (fun m => hasFault d m) then 5
  else 0

/-- A channel leaves its safe state into OPEN: the lands of OPEN, and both command dead times at DTMAX (R78, R84, R100). -/
def leaveSafe (d : Dev) (c : Chan) : Dev :=
  let m := dtMax d c
  let d := setFlag d (chBlk c) CH_STS 18 false
  let d := wr d (chBlk c) CH_DT_CMD (BitVec.ofNat 32 (m * 0x10000 + m))
  openLands d c

/-- CH_CTRL.EN is set: an enable is refused with its cause, or takes the channel and its group out of the safe state (R95, R100). -/
def enableChan (d : Dev) (c : Chan) : Dev :=
  if flag d (chBlk c) CH_CTRL 0 then d else
  let k := enCause d c
  if k ≠ 0 then setFld (raEvent d (chBlk c) CH_STS 0x80) (chBlk c) CH_STS 17 15 k
  else forEach (members d c) (setFlag (restBreak d c.bank) (chBlk c) CH_CTRL 0 true) leaveSafe

/-- CH_CTRL.EN is cleared: the channel and its group go safe with DISABLED (R101, R192). -/
def disableChan (d : Dev) (c : Chan) : Dev :=
  if flag d (chBlk c) CH_CTRL 0 then safeGroup (setFlag d (chBlk c) CH_CTRL 0 false) c 0x12 0 else d

end Sys2Proof.Machine
end

