-- ==== Sys2Proof/Machine/Thermal.lean ====
section
/-! DEFINITION. Temperature (R367 to R374), the shunt entries (R361), external calibration (R362 to R365), tap tables from the Catalogue (R160, R356, R358) and Patina (R375 to R379). -/

namespace Sys2Proof.Machine

open Sys2Proof

/-- The device with its thermal model changed. -/
def modThm (d : Dev) (f : ThmSt → ThmSt) : Dev := { d with thm := f d.thm }

/-- The device with its Catalogue changed. -/
def modCat (d : Dev) (f : CatSt → CatSt) : Dev := { d with cat := f d.cat }

/-- Whether the supervisor runs (DEV_STS.HUP). -/
def hostUp (d : Dev) : Bool := flag d bDEV DEV_STS 16

/-! ### The thermal model (R367) -/

/-- The alternating series of exp(-x) for x in units of 2^-64, from term `k` on. -/
def expTerms : Nat → Nat → Nat → Nat → Int
  | 0, _, _, _ => 0
  | n + 1, k, x, t => t - expTerms n (k + 1) x (t * x / ((k + 1) * 2 ^ 64))

/-- A number squared `n` times, in units of 2^-64. -/
def squares : Nat → Nat → Nat
  | 0, e => e
  | n + 1, e => squares n (e * e / 2 ^ 64)

/-- exp(-num ÷ den) in units of 2^-64, to some 2^-50. -/
def expNeg (num den : Nat) : Nat :=
  if den = 0 ∨ 64 * den ≤ num then 0
  else squares 8 (expTerms 24 0 (num * 2 ^ 56 / den) (2 ^ 64)).toNat

/-- The words of the thermal-model entry, when it is there (R356). -/
def thmData (d : Dev) : Option (List Word) := entryData d 0x09 0 0 153

/-- τ of pole i in µs. -/
def thmTau (ws : Option (List Word)) (i : Nat) : Nat :=
  match ws with
  | some l => (l.getD i 0).toNat
  | none => Config.romThermal i

/-- The coupling term with halfword number h, in 0.1 mK/W. -/
def thmG (ws : Option (List Word)) (h : Nat) : Nat :=
  match ws with
  | some l => let w := l.getD (3 + h / 2) 0; if h % 2 = 0 then bits w 15 0 else bits w 31 16
  | none => Config.romThermal (3 + h) % 0x10000

/-- The pole states after a millisecond with the node powers in mW: x + a (ΣGP − x) (R367). -/
def thmPoles (ws : Option (List Word)) (power : List Nat) (poles : List Int) : List Int :=
  (List.range 30).map fun h =>
    let n := h / 3
    let i := h % 3
    let s : Nat := ((List.range 10).map fun k => thmG ws (30 * n + 3 * k + i) * power.getD k 0).foldl (· + ·) 0
    let a : Int := 2 ^ 64 - expNeg 1000 (thmTau ws i)
    let x := poles.getD h 0
    x + a * ((s : Int) * 2 ^ 64 - x) / 2 ^ 64

/-- The rise of a node in 10^-7 K. -/
def thmRise (d : Dev) (n : Nat) : Int :=
  (d.thm.poles.getD (3 * n) 0 + d.thm.poles.getD (3 * n + 1) 0 + d.thm.poles.getD (3 * n + 2) 0) / 2 ^ 64

/-- Whether a sensor works (THM_SENSOK). -/
def sensOk (d : Dev) (s : Nat) : Bool := flag d bTHM THM_SENSOK s

/-- The working sensors. -/
def working (d : Dev) : List Nat := (List.range 12).filter fun s => sensOk d s

/-- The last reading of a sensor in 0.01 °C. -/
def sensOf (d : Dev) (s : Nat) : Int := sx 16 (fld d bTHM (THM_SENS + 4 * s) 15 0)

/-- The reading every node's temperature starts from while the model has no history, in 10^-7 °C: the highest reading of the working
sensors plus 10 °C (R370); with no working sensor the spec states none, and the value is free. -/
def coldBase (d : Dev) : Int × Dev :=
  match (working d).map fun s => sensOf d s with
  | [] => let f := fresh d; ((Config.free f.1 : Int), f.2)
  | x :: r => ((r.foldl max x + 1000) * 100000, d)

/-- The temperature of every node in 10^-7 °C (R367, R370, R358). -/
def thmTemps (d : Dev) : List Int × Dev :=
  let up := if flag d bTHM THM_STS 17 || (thmData d).isNone then 50000000 else 0
  if flag d bTHM THM_STS 16 then ((List.range 10).map fun n => d.thm.tref + thmRise d n + up, d)
  else let x := coldBase d; ((List.range 10).map fun _ => x.1 + up, x.2)

/-- A temperature in 10^-7 °C as a register of 16 bits in 0.01 °C shows it. -/
def tempWord (d : Dev) (t : Int) : Word × Dev := let x := meanUnits d t 100000; (BitVec.ofNat 32 (ux 16 x.1), x.2)

/-! ### Bands (R371, R372) -/

/-- The upper boundaries of bands B0 to B6 in 10^-7 °C. -/
def bandEdges : List Int := [-150000000, 100000000, 350000000, 600000000, 850000000, 1100000000, 1350000000]

/-- The band that holds a temperature. -/
def bandOfTemp (t : Int) : Nat := (bandEdges.filter fun e => decide (e ≤ t)).length

/-- The band after a millisecond: one up or down past 1 °C beyond a boundary (R371). -/
def bandNext (n : Nat) (t : Int) : Nat :=
  if n < 7 ∧ bandEdges.getD n 0 + 10000000 ≤ t then n + 1
  else if 0 < n ∧ t < bandEdges.getD (n - 1) 0 - 10000000 then n - 1
  else n

/-- CH_MSTS.WARM and the lack of calibration of a channel (R137, R358). -/
def warmUpdate (d : Dev) (c : Chan) : Dev :=
  let set := hasSet d (servingPair d c) c.bank.val
  let w := decide (d.tb.mono < d.pwr.fieldUpAt + 60000000 * tapsPerUs) || !flag d bTHM THM_STS 16 || !set
  modMeas (setFlag d (chBlk c) CH_MSTS 19 w) c fun m => { m with noCal := !set || !hasRef d c.bank }

/-- Every channel's WARM. -/
def warmAll (d : Dev) : Dev := forEach allChans d warmUpdate

/-! ### Tap tables from the Catalogue (R160, R356, R358, R372) -/

/-- The node whose band governs a delay line (R372). -/
def lineNode (l : Nat) : Nat := if l < 384 then l / 48 else if l = 388 then 8 else 9

/-- Whether a delay line belongs to HD (R161). -/
def hostLine (l : Nat) : Bool := decide (384 ≤ l) && decide (l ≠ 388)

/-- The fraction a table gives to physical tap j from its 48 knots: interpolated and rounded to the nearest fraction; taps 189 to 191
are extrapolated from knots 46 and 47 (R356). DEDUCED (log 107): a tap beside a knot outside the mapped span, or one whose fraction would
lie outside 0 to 159, is outside it too. -/
def knotTap (knots : List Nat) (j : Nat) : Byte :=
  let k := min 46 (j / 4)
  let a := knots.getD k 0xFF
  let b := knots.getD (k + 1) 0xFF
  let x : Int := (2 * (4 * (a : Int) + ((b : Int) - a) * ((j : Int) - 4 * k)) + 4) / 8
  if j = 4 * k then BitVec.ofNat 8 a
  else if a = 0xFF ∨ b = 0xFF ∨ x < 0 ∨ 159 < x then 0xFF
  else BitVec.ofInt 8 x

/-- The fractions of all 192 taps of a line in the band of its node: from the Catalogue, else the uniform table (R356, R358). -/
def tapLoad (d : Dev) (l : Nat) : List Byte :=
  match entryData d 0x08 (nodeBand d (lineNode l)) l 12 with
  | some ws =>
    let knots := (wordBytes ws).map fun b => b.toNat
    (List.range 192).map fun j => knotTap knots j
  | none => (List.range 192).map fun j => Config.nominalTap j

/-- What an unlisted tap of the tables in force holds. -/
def tapDefault (k : Nat) : Byte := Config.nominalTap (k % 192)

/-- A table of a line waits for the next modulator sample boundary (R162); it replaces one that waits already. -/
def tapWait (d : Dev) (l : Nat) (tab : List Byte) : Dev :=
  { d with tb := { d.tb with tapNew := d.tb.tapNew.filter (fun x => x.1 != l) ++ [(l, tab)] } }

/-- The lines that a node's band governs (R372). -/
def nodeLines (n : Nat) : List Nat :=
  if n < 8 then (List.range 48).map fun i => 48 * n + i else if n = 8 then [388] else [384, 385, 386, 387, 389]

/-! ### Patina's guards (R377) -/

/-- The dead-time guard of a channel (R377). With one baseline per direction, the rise is the larger of the two rises. -/
def dtGuard (d : Dev) (c : Chan) : Nat :=
  let t := (ch d c).tim
  let rise := match t.base with
    | some b => max (t.cur.1 - b.1) (t.cur.2 - b.2)
    | none => 0
  min 1023 (baseGuard d c + (3 * t.spreadE + 255) / 256 + rise)

/-- The trim word of a channel with the comparator guard widened by the largest offset of its comparators (R377). -/
def cmpTarget (d : Dev) (c : Chan) : Word :=
  let w := baseTrim d c
  let o := ((ch d c).cmp.ofs.map fun x => (x.natAbs + 4095) / 4096).foldl max 0
  putBits w 29 24 (min 63 (bits w 29 24 + o))

/-- A channel's guards and trims take new targets: the dead-time guard moves with its PWM periods, or at once while it makes none; the
comparator thresholds move with their decisions (R366). -/
def guardUpdate (d : Dev) (c : Chan) : Dev :=
  let g := dtGuard d c
  let d := modTim (trimSettle d c) c fun t => { t with guard := g }
  let d := if (ch d c).force.drive = .pwm then d else setFld d (chBlk c) CH_DT_TGT 25 16 g
  let w := cmpTarget d c
  modCh d c fun k => { k with cmp := { k.cmp with tgt := w } }

/-! ### A band changes (R124, R359, R366, R372) -/

/-- The reserve pair's phase restarts when its bank changes band (R124). -/
def bandTurn (now : Nat) (r : Rotation) : Rotation :=
  match r.phase with
  | .shadow => { r with since := now }
  | .shadowBack => { r with since := max r.since now }
  | .offset => { r with phase := .offset, since := max r.since now }
  | .gain => { r with phase := .offset, since := now }
  | .check => { r with phase := .offset, since := now }
  | _ => r

/-- What follows a node's band: tap tables, and for a bank its channels' trims, guards, flags and the reserve pair's turn. -/
def bandFollow (d : Dev) (n : Nat) (changed : Bool) : Dev :=
  let d := forEach (nodeLines n) d fun d l => tapWait d l (tapLoad d l)
  if h : n < 8 then
    let b : Bank := ⟨n, h⟩
    let d := if changed then modRot d b (bandTurn d.tb.mono) else d
    forEach (bankChans b) d fun d c => guardUpdate (warmUpdate (if changed then eisBand (noteFlags d c 0x4000) c else d) c) c
  else d

/-- A node enters a band. -/
def bandSet (d : Dev) (n band : Nat) (changed : Bool) : Dev :=
  let d := if h : n < 8 then forEach (bankChans ⟨n, h⟩) d eisBand else d
  let d := setFld d bTHM THM_BAND (3 * n + 2) (3 * n) band
  bandFollow (if changed then raEvent d bTHM THM_STS 0x1 else d) n changed

/-- The place of a thermal node. -/
def nodeLoc (n : Nat) : Word :=
  if h : n < 8 then locBankFA ⟨n, h⟩ 0 0 else if n = 8 then locCode 1 0 31 0 0 0 else locHD 0 0

/-- A node has reached 150 °C (R374). -/
def thermalShut (d : Dev) (n : Nat) : Dev :=
  let d := forEach allBanks d bankDisable
  let d := setFlag (raEvent d bTHM THM_STS 0x4) bTHM THM_STS 18 true
  raise d bTHM 0x1602 (nodeLoc n) (BitVec.ofNat 32 n)
    (BitVec.ofInt 32 (sx 16 (fld d bTHM (THM_TJ + 4 * n) 15 0))) true

/-- The model's millisecond (R367, R371, R374): powers, poles, temperatures, bands, and the shutdown. -/
def doThermalUpdate (power : List Nat) (d : Dev) : Dev :=
  if !hostUp d then d else
  let d := forEach (List.range 10) d fun d n => wr d bTHM (THM_PWR + 4 * n) (BitVec.ofNat 32 (power.getD n 0))
  let d := modThm d fun t => { t with poles := thmPoles (thmData d) power t.poles }
  let old := d.thm.tj
  let x := thmTemps d
  let d := modThm x.2 fun t => { t with tj := x.1 }
  let d := forEach (List.range 10) d fun d n =>
    let w := tempWord d (x.1.getD n 0)
    wr w.2 bTHM (THM_TJ + 4 * n) w.1
  let first := !d.thm.banded
  let d := modThm d fun t => { t with banded := true }
  let d := forEach (List.range 10) d fun d n =>
    let t := x.1.getD n 0
    let b := nodeBand d n
    if first then bandSet d n (bandOfTemp t) false
    else if bandNext b t = b then d else bandSet d n (bandNext b t) true
  let d := forEach (List.range 10) d fun d n =>
    if 1500000000 ≤ x.1.getD n 0 ∧ (first ∨ old.getD n 0 < 1500000000) then thermalShut d n else d
  if flag d bTHM THM_STS 18 && !(x.1.any fun t => decide (1400000000 ≤ t)) then
    unlive (setFlag d bTHM THM_STS 18 false) bTHM 0x1602
  else d

/-! ### Sensors (R368 to R370) -/

/-- The node a sensor sits on (R368). -/
def sensNode (s : Nat) : Nat := if s < 8 then s else if s < 10 then 8 else 9

/-- The neighbours of a sensor (R368). -/
def sensNear (s : Nat) : List Nat :=
  if s < 4 then (List.range 4).filter (· != s) ++ [8, 9]
  else if s < 8 then ([4, 5, 6, 7].filter (· != s)) ++ [8, 9]
  else if s = 8 then 9 :: List.range 8
  else if s = 9 then 8 :: List.range 8
  else if s = 10 then [11, 8, 9]
  else [10, 8, 9]

/-- A number put into its place in a rising list. -/
def putSorted (x : Int) : List Int → List Int
  | [] => [x]
  | y :: r => if x ≤ y then x :: y :: r else y :: putSorted x r

/-- The median of a list; of an even number of values, the mean of the two in the middle. -/
def medianI (l : List Int) : Option Int :=
  let s := l.foldl (fun a x => putSorted x a) []
  let n := s.length
  if n = 0 then none
  else if n % 2 = 1 then s[n / 2]?
  else some ((s.getD (n / 2 - 1) 0 + s.getD (n / 2) 0) / 2)

/-- The residual of a sensor in 10^-7 K (R368). -/
def residual (d : Dev) (s : Nat) : Int := sensOf d s * 100000 - thmRise d (sensNode s)

/-- Whether a sensor's residual lies more than 6 °C from TREF and from its working neighbours' median (R369). -/
def sensOff (d : Dev) (s : Nat) : Bool :=
  let r := residual d s
  match medianI (((sensNear s).filter fun k => sensOk d k).map fun k => residual d k) with
  | some m => decide (60000000 < (r - d.thm.tref).natAbs) && decide (60000000 < (r - m).natAbs)
  | none => false

/-- DEGRADED: fewer than four sensors work (R370). -/
def sensCount (d : Dev) : Dev := setFlag d bTHM THM_STS 17 (decide ((working d).length < 4))

/-- A sensor is declared broken (R369). -/
def sensBroken (d : Dev) (s : Nat) : Dev :=
  let d := raEvent (setFlag d bTHM THM_SENSOK s false) bTHM THM_STS 0x2
  raise (sensCount d) bTHM 0x1601 (nodeLoc (sensNode s)) (BitVec.ofNat 32 s) (BitVec.ofInt 32 (sensOf d s)) true

/-- THM_TREF shows TREF. -/
def trefShow (d : Dev) : Dev := let w := tempWord d d.thm.tref; wr w.2 bTHM THM_TREF w.1

/-- A check of the sensors with their readings in 0.01 °C (R368, R369): broken ones are found against TREF as it stands and excluded,
then TREF moves towards the median of the rest by at most 0.5 °C. -/
def doSensorCheck (readings : List Int) (d : Dev) : Dev :=
  if !hostUp d then d else
  let d := forEach (List.range 12) d fun d s =>
    wr d bTHM (THM_SENS + 4 * s) (BitVec.ofNat 32 (ux 16 (readings.getD s 0)))
  let hist := flag d bTHM THM_STS 16
  let d0 := d
  let fails := (List.range 12).map fun s => if hist && sensOk d0 s && sensOff d0 s then d0.thm.fails.getD s 0 + 1 else 0
  let d := modThm d fun t => { t with fails := fails }
  let d := forEach (working d0) d fun d s =>
    let x := readings.getD s 0
    if x < -5500 ∨ 17500 < x ∨ 10 ≤ fails.getD s 0 then sensBroken d s else d
  match medianI ((working d).map fun s => residual d s) with
  | some m => trefShow (modThm d fun t => { t with tref := moveBy 5000000 t.tref m })
  | none => d

/-- A write of THM_SENSCTL readmits sensors (R369). -/
def sensReadmit (d : Dev) (v : Word) : Dev :=
  let d := forEach (List.range 12) d fun d s =>
    if bit v s then modThm (unliveOf (setFlag d bTHM THM_SENSOK s true) bTHM 0x1601 (BitVec.ofNat 32 s)) fun t => { t with fails := t.fails.set s 0 } else d
  sensCount d

/-- The model gains its history 60 s after the field side came up (R370). -/
def doModelHistory (d : Dev) : Dev :=
  if flag d bTHM THM_STS 16 || !d.pwr.fup || decide (d.tb.mono < d.pwr.fieldUpAt + 60000000 * tapsPerUs) then d else
  let d := match medianI ((working d).map fun s => residual d s) with
    | some m => trefShow (modThm d fun t => { t with tref := m })
    | none => d
  warmAll (setFlag d bTHM THM_STS 16 true)

/-- The intervals of R373 in a band: field and HD working SRAM in s, MRAM in minutes ÷ 30. -/
def scrubTimes (band : Nat) : Nat × Nat :=
  match band with
  | 3 => (32, 24)
  | 4 => (16, 12)
  | 5 => (8, 4)
  | 6 => (4, 2)
  | 7 => (2, 1)
  | _ => (64, 48)

/-- A pass of a kind begins with the interval of its node's band (R373). -/
def scrubNext (d : Dev) (k : ScrubKind) : Dev :=
  match k with
  | .fieldSram => setFld d bTHM THM_SCRUB 7 0 (scrubTimes (nodeBand d 8)).1
  | .hdSram => setFld d bTHM THM_SCRUB 15 8 (scrubTimes (nodeBand d 9)).1
  | .mram => setFld d bTHM THM_SCRUB 23 16 (scrubTimes (nodeBand d 9)).2

/-! ### The copies of the Catalogue and of the Patina store (R357) -/

/-- What one copy of an entry of `n` data words is: none when it is empty, else its words and whether they pass (R355). -/
def copyState (m : SMap Word) (ty band idx n : Nat) : Option (List Word × Bool) :=
  let ws := copyGet m (entryOff ty band idx / 4) (n + 2)
  if bits (ws.getD 0 0) 31 24 = 0 then none else some (ws, (copyData m ty band idx n).isSome)

/-- The place of an entry as fault parameters name it: TYPE, BAND and INDEX as in its header word. -/
def entryName (ty band idx : Nat) : Word := BitVec.ofNat 32 (ty * 0x1000000 + band * 0x200000 + idx * 0x1000)

/-- One copy failed and the other is used (R357). -/
def copyFault (d : Dev) (ty band idx : Nat) (copyB : Bool) : Dev :=
  raise (raEvent d bCAT CAT_STS 0x1) bCAT 0x1501 (locHD 7 10) (entryName ty band idx) (BitVec.ofNat 32 (b2n copyB)) false

/-- The check of both copies of an entry (R357). -/
def entryCheck (d : Dev) (ty band idx n : Nat) : Dev :=
  let a := if inPatina ty then d.cat.pa else d.cat.a
  let b := if inPatina ty then d.cat.pb else d.cat.b
  let empty : List Word := List.replicate (n + 2) 0
  match copyState a ty band idx n, copyState b ty band idx n with
  | none, none => d
  | some (x, true), some (y, true) => if x = y then d else entryPut d ty band idx x
  | some (x, true), none => entryPut d ty band idx x
  | none, some (_, true) => entryPut d ty band idx empty
  | some (x, true), some (_, false) => copyFault (entryPut d ty band idx x) ty band idx true
  | some (_, false), some (y, true) => copyFault (entryPut d ty band idx y) ty band idx false
  | none, some (_, false) => copyFault (entryPut d ty band idx empty) ty band idx true
  | some (_, false), none => copyFault (entryPut d ty band idx empty) ty band idx false
  | some (_, false), some (_, false) =>
    raise (raEvent d bCAT CAT_STS 0x2) bCAT 0x1502 (locHD 7 10) (entryName ty band idx) 0 false

/-- The types with their numbers of bands, indices and data words (R356, R380). -/
def entryTypes : List (Nat × Nat × Nat × Nat) :=
  [(0x01, 1, 1, 8), (0x02, 1, 2, 8), (0x03, 8, 200, 8), (0x04, 1, 192, 4), (0x05, 1, 192, 8), (0x06, 1, 192, 4), (0x07, 1, 200, 2),
   (0x09, 1, 1, 153), (0x08, 8, 390, 12), (0x0A, 1, 200, 151), (0x0B, 1, 192, 5), (0x0C, 1, 1, 3)]

/-- The check of every entry, at power-up and at every MRAM scrub pass (R357, R380). -/
def catCheck (d : Dev) : Dev :=
  forEach entryTypes d fun d t =>
    forEach (List.range t.2.2.1) d fun d i => forEach (List.range t.2.1) d fun d b => entryCheck d t.1 b i t.2.2.2

/-! ### Shunt entries (R361) -/

/-- A shunt command that is being written is finished: both copies hold it, and CH_SHUNT takes it at the next modulator sample
boundary. -/
def shuntFinish (d : Dev) : Dev :=
  match d.cat.shWr with
  | none => d
  | some w =>
    let d := match w.data with
      | some ws => entryWrite d 0x04 0 w.chan.val 3 ws
      | none => entryPut d 0x04 0 w.chan.val (List.replicate 6 0)
    let d := raEvent (modCat d fun k => { k with shWr := none }) bCAT CAT_STS 0x20
    let r := shuntNow d w.chan
    modMeas d w.chan fun m => { m with shuntNew := some r }

/-- A shunt command is refused (R361). -/
def shuntRefuse (d : Dev) : Dev := raEvent d bCAT CAT_STS 0x10

/-- The channel a shunt command names. -/
def shuntChan (v : Word) : Option Chan := if h : bits v 23 16 < 192 then some ⟨bits v 23 16, h⟩ else none

/-- CMD 1: a commit of the staged values (R361). -/
def shuntCommit (d : Dev) (v : Word) : Dev :=
  match shuntChan v with
  | none => shuntRefuse d
  | some c =>
    if flag d (chBlk (leadOf d c)) CH_CTRL 0 ∨ rd d bCAT CAT_SHR = 0 then shuntRefuse d else
    let d := shuntFinish d
    let ws := [rd d bCAT CAT_SHR, rd d bCAT CAT_SHTC, rd d bCAT CAT_SHAUX, BitVec.ofNat 32 (b2n (bit v 8))]
    modCat d fun k => { k with shWr := some ⟨c, some ws⟩ }

/-- CMD 2: an erase of a channel's entry (R361). -/
def shuntErase (d : Dev) (v : Word) : Dev :=
  match shuntChan v with
  | none => shuntRefuse d
  | some c => modCat (shuntFinish d) fun k => { k with shWr := some ⟨c, none⟩ }

/-- A write of CAT_SHCMD (R361). -/
def shcmdWrite (d : Dev) (v : Word) : Dev :=
  match bits v 1 0 with
  | 1 => shuntCommit d v
  | 2 => shuntErase d v
  | _ => d

/-! ### External calibration (R362 to R365) -/

/-- CAT_CALSTS shows a running calibration, or its end. -/
def calShow (d : Dev) (phase result : Nat) : Dev :=
  let w := rd d bCAT CAT_CALSTS
  wr d bCAT CAT_CALSTS (putBits (putBits (putBit w 31 (decide (phase ≠ 0))) 30 28 phase) 3 0 result)

/-- The certified values of a die lie within R363. -/
def refsOk (d : Dev) (die : Nat) : Bool :=
  let v := (rd d bCAT (CAT_REFV + 8 * die)).toNat
  let i := (rd d bCAT (CAT_REFI + 8 * die)).toNat
  decide (16000000 ≤ v ∧ v ≤ 24000000) && decide (50000000 ≤ i ∧ i ≤ 120000000)

/-- The banks of a die whose rotation runs with PHASE 0 to 3 (R364). -/
def calBanks (d : Dev) (die : Nat) : List Bank :=
  allBanks.filter fun b => decide (b.val / 4 = die) && flag d (.bank b .rsv) RSV_CTL 0 && decide (fld d (.bank b .rsv) RSV_STS 18 16 ≤ 3)

/-- CMD 1: an external calibration starts, or is refused with its cause (R364, R365). -/
def calStart (d : Dev) (v : Word) : Dev :=
  let die := bits v 8 8
  match d.cat.cal with
  | some _ => setFld d bCAT CAT_CALSTS 3 0 3
  | none =>
    let bs := calBanks d die
    let d := wr d bCAT CAT_CALSTS (BitVec.ofNat 32 (die * 0x1000000))
    if bs.length < 2 then calShow d 0 1
    else if !refsOk d die then calShow d 0 2
    else
      let mask := (bs.map fun b => 2 ^ (b.val % 4)).foldl (· + ·) 0
      let d := modCat d fun k =>
        { k with cal := some { die := die, phase := 1, at_ := d.tb.mono, banks := bs.map fun b => b.val, seen := [] } }
      calShow (setFld d bCAT CAT_CALSTS 7 4 mask) 1 0

/-- An external calibration ends (R365). -/
def calOver (d : Dev) (result : Nat) : Dev := calShow (modCat d fun k => { k with cal := none }) 0 result

/-- CMD 2: a running calibration is abandoned (R364). -/
def calAbandon (d : Dev) : Dev :=
  match d.cat.cal with
  | some _ => calOver d 4
  | none => d

/-- A write of CAT_CALCMD (R364). -/
def calcmdWrite (d : Dev) (v : Word) : Dev :=
  match bits v 1 0 with
  | 1 => calStart d v
  | 2 => calAbandon d
  | _ => d

/-- The relative change of a reference in 0.01 ppm. -/
def refMove (old new : Word) : Nat :=
  if old = 0 then 0 else (new.toInt - old.toInt).natAbs * 100000000 / old.toInt.natAbs

/-- The ageing coefficient of a die after a calibration (R376): with two or more on record, the largest change over the square root of
its years, and at least 1 ppm; a first calibration of a die without an entry leaves the default. The years run from the die's calibration
before (DEDUCED, log 107). -/
def newA (d : Dev) (die : Nat) (refV refI : Word) : Nat :=
  match entryData d 0x02 0 die 8 with
  | none => 250
  | some ws =>
    let m := max (refMove (ws.getD 0 0) refV) (refMove (ws.getD 1 0) refI)
    let last := d.cat.refAt.getD die ((rd d bCAT CAT_LAST_OPSEC).toNat, false)
    let a := isqrt (m * m * 31536000 / max 1 ((opsec d).toNat - last.1))
    let kept := if last.2 then (ws.getD 4 0).toNat else 0
    max 100 (max kept a)

/-- When each die was last calibrated, after a calibration of one in the field (R376). -/
def refDates (d : Dev) (die : Nat) : List (Nat × Bool) :=
  (List.range 2).map fun k => if k = die then ((opsec d).toNat, true) else d.cat.refAt.getD k ((rd d bCAT CAT_LAST_OPSEC).toNat, false)

/-- CAT_DUE_OPSEC after a calibration (R378): a year, or less with the larger of the dies' coefficients. -/
def dueOpsec (d : Dev) : Word :=
  let a := max (dieA d 0) (dieA d 1)
  rd d bCAT CAT_LAST_OPSEC + BitVec.ofNat 32 (min 31536000 (250 * 250 * 31536000 / (a * a)))

/-- A pair's first readings differ from the certified values by more than 200 ppm (R365). -/
def readingOff (d : Dev) (die : Nat) (x : CalReading) : Bool :=
  let certV : Int := (rd d bCAT (CAT_REFV + 8 * die)).toNat
  let certI : Int := (rd d bCAT (CAT_REFI + 8 * die)).toNat
  decide (200 * certV < (x.v - certV).natAbs * 1000000) || decide (200 * certI < (x.i - certI).natAbs * 1000000)

/-- Whether values disagree by more than `ppm` of the smallest (R365). -/
def apart (ppm : Nat) (l : List Int) : Bool :=
  l.any fun x => l.any fun y => decide ((ppm * x.natAbs : Nat) < (y - x) * 1000000)

/-- Whether a bank of a calibration is suspended in L2 or L3 (R125, R365). -/
def calSuspended (d : Dev) (b : Bank) : Bool := decide (2 ≤ pstate d b)

/-- The banks of a calibration whose rotation still runs (R364). -/
def calStill (d : Dev) (r : CalRun) : List Bank := (calBanks d r.die).filter fun b => decide (b.val ∈ r.banks)

/-- Phase 1 ends with the die's new internal reference values, the means over the pairs that took part (R362, R364). -/
def phase1Done (d : Dev) (r : CalRun) (act : List Bank) (xs : List CalReading) : Dev :=
      let mv := meanUnits d (xs.map fun x => x.v).sum xs.length
      let mi := meanUnits mv.2 (xs.map fun x => x.i).sum xs.length
      let d := mi.2
      let v : Word := BitVec.ofInt 32 mv.1
      let i : Word := BitVec.ofInt 32 mi.1
      let a := newA d r.die v i
      let d := modCat d fun k => { k with refAt := refDates d r.die }
      let ws := [v, i, rd d bCAT (CAT_REFV + 8 * r.die), rd d bCAT (CAT_REFI + 8 * r.die), BitVec.ofNat 32 a, 0, 0, 0]
      let d := entryWrite d 0x02 0 r.die 3 ws
      let d := wr d bCAT CAT_COUNT (rd d bCAT CAT_COUNT + 1)
      let d := wr d bCAT CAT_LAST_LO (d.tb.now.truncate 32)
      let d := wr d bCAT CAT_LAST_HI ((d.tb.now >>> 32).truncate 32)
      let d := wr d bCAT CAT_LAST_OPSEC (opsec d)
      let d := wr d bCAT CAT_DUE_OPSEC (dueOpsec d)
      let d := entryWrite d 0x01 0 0 2
        [rd d bCAT CAT_COUNT, rd d bCAT CAT_LAST_LO, rd d bCAT CAT_LAST_HI, rd d bCAT CAT_LAST_OPSEC, rd d bCAT CAT_DUE_OPSEC, 0, 0, 0]
      let d := warmAll (raEvent d bCAT CAT_STS 0x8)
      let d := setFld d bCAT CAT_CALSTS 7 4 ((act.map fun b => 2 ^ (b.val % 4)).foldl (· + ·) 0)
      calShow (modCat d fun k => { k with cal := some { r with phase := 2, at_ := d.tb.mono, banks := act.map fun b => b.val } }) 2 0

/-- Phase 1 of a calibration with the first readings and the reference values that the reserve pairs of its banks gave so far (R364, R365):
a first reading out of range ends it; it waits up to 40 s for a suspended bank and for the values of the others. -/
def doPhase1End (first refs : List CalReading) (d : Dev) : Dev :=
  match d.cat.cal with
  | none => d
  | some r =>
    let still := calStill d r
    let act := still.filter fun b => !calSuspended d b
    let xs := act.filterMap fun b => refs.find? fun x => x.bank = b
    if r.phase ≠ 1 then d
    else if (act.filterMap fun b => first.find? fun x => x.bank = b).any (readingOff d r.die) then calOver (raEvent d bCAT CAT_STS 0x4) 2
    else if still.any (calSuspended d) && decide (d.tb.mono < r.at_ + 40000000 * tapsPerUs) then d
    else if act.length < 2 then calOver d 1
    else if xs.length < act.length then d
    else if apart 2 (xs.map fun x => x.v) || apart 5 (xs.map fun x => x.i) then calOver d 5
    else phase1Done d r act xs

/-- Phase 2 ends when every channel of the banks whose rotation still runs has been cross-checked (R364, R365). -/
def doPhase2End (d : Dev) : Dev :=
  match d.cat.cal with
  | none => d
  | some r =>
    if r.phase = 2 ∧ (calStill d r).all (fun b => (bankChans b).all fun c => decide (c.val ∈ r.seen)) then
      calOver d (if fld d bCAT CAT_CALSTS 14 8 = 0 then 0 else 6)
    else d

/-! ### Patina (R375 to R380) -/

/-- Two halfwords, low half first. -/
def halves (lo hi : Int) : Word := BitVec.ofNat 32 (ux 16 lo + 0x10000 * ux 16 hi)

/-- A coefficient of a turn as its history holds it (R380): the difference from the factory converter set of the band, an offset in 1/256
LSB, a gain of Q2.30 in 0.01 ppm, saturated to a halfword. -/
def turnDiff (d : Dev) (pair band j : Nat) (x : Word) : Int × Dev :=
  let f := Config.factorySet pair band j
  let r := if j = 1 ∨ 5 ≤ j then meanUnits d (((x.toNat : Int) - f.toNat) * 100000000) (2 ^ 30) else (x.toInt - f.toInt, d)
  (satI 16 r.1, r.2)

/-- The eight halfwords of a turn from place `j` of its coefficients on (R380). -/
def turnDiffs (pair band : Nat) : Nat → List Word → Dev → List Int × Dev
  | _, [], d => ([], d)
  | j, x :: r, d =>
    let y := turnDiff d pair band j x
    let z := turnDiffs pair band (j + 1) r y.2
    (y.1 :: z.1, z.2)

/-- A pair's coefficients are new: its converter set in the band in force with SRC 2, one more turn, and a slot of its history. The
coefficients are analog readings and free (R359, R375, R379); the slot is formed from them (R380). -/
def pairCal (d : Dev) (pair bank : Nat) : Dev :=
  let n := d.free
  let d := { d with free := n + 8 }
  let band := nodeBand d bank
  let set : List Word := (List.range 8).map fun i => BitVec.ofNat 32 (Config.free (n + i))
  let x := turnDiffs pair band 0 set (entryWrite d 0x03 band pair 2 set)
  let d := x.2
  let turns := smGet wordZero d.cat.turns pair
  let d := modCat d fun k => { k with turns := smSet wordZero k.turns pair (if turns = 0xFFFF then turns else turns + 1),
                                      hand := smSet wordZero k.hand pair (opsec d) }
  let old := (entryData d 0x0A 0 pair 151).getD (List.replicate 151 0)
  let held := bits (old.getD 0 0) 4 0
  let slot := if held = 0 then 0 else (bits (old.getD 0 0) 12 8 + 1) % 30
  let head : Word := BitVec.ofNat 32 (min 30 (held + 1) + slot * 0x100)
  let turn : List Word := BitVec.ofNat 32 (band * 0x20000000 + (opsec d).toNat / 8 % 0x20000000)
    :: (List.range 4).map fun i => halves (x.1.getD (2 * i) 0) (x.1.getD (2 * i + 1) 0)
  entryWrite d 0x0A 0 pair 2 (head :: (old.drop 1).take (5 * slot) ++ turn ++ old.drop (6 + 5 * slot))

/-- A channel's mean soft delays over an interval, in whole taps (R375). -/
def timInterval (d : Dev) (c : Chan) : Dev :=
  let t := (ch d c).tim
  if t.nAB + t.nBA = 0 then d else
  let a := meanUnits d t.sumAB t.nAB
  let b := meanUnits a.2 t.sumBA t.nBA
  let cur := (if t.nAB = 0 then t.cur.1 else a.1.toNat, if t.nBA = 0 then t.cur.2 else b.1.toNat)
  modTim b.2 c fun t => { t with cur := cur, base := t.base.or (some cur), sumAB := 0, nAB := 0, sumBA := 0, nBA := 0 }

/-- Patina recomputes its outputs (R376, R377, R379). -/
def patinaOut (d : Dev) : Dev :=
  let n := d.free
  let d := { d with free := n + 802 }
  let d := modCat d fun k => { k with uref0 := dieURef d 0, uref1 := dieURef d 1, outAt := (opsec d).toNat, draw := n }
  forEach allChans d guardUpdate

/-- Every 60 s (R375, R379). -/
def doPatinaUpdate (d : Dev) : Dev := if hostUp d then patinaOut (forEach allChans d timInterval) else d

/-- An offset in 1/65536 code as the nearest number of 1/16 code, saturated to a halfword. -/
def ofsTaps (x : Int) : Int := satI 16 ((x + 2048) / 4096)

/-- The data words of a channel timing entry (R380). -/
def timWords (d : Dev) (c : Chan) : List Word :=
  let t := (ch d c).tim
  let b := t.base.getD (0, 0)
  let o := (ch d c).cmp.ofs
  [halves (min 0xFFFF t.spreadE) (min 0xFFFF t.spreadT), halves b.1 b.2, halves t.cur.1 t.cur.2,
   halves (ofsTaps (o.getD 0 0)) (ofsTaps (o.getD 1 0)), halves (ofsTaps (o.getD 2 0)) 0]

/-- Patina writes its stored state: the entries of type 0x07 and the timing entries (R379, R380). -/
def patinaStore (d : Dev) : Dev :=
  let d := forEach (List.range 200) d fun d n =>
    entryWrite d 0x07 0 n 2 [smGet wordZero d.cat.hand n, smGet wordZero d.cat.turns n]
  let d := forEach allChans d fun d c => entryWrite d 0x0B 0 c.val 2 (timWords d c)
  let s := d.cat.spread.map fun x => ((min 0xFFFF x : Nat) : Int)
  entryWrite d 0x0C 0 0 2 [halves (s.getD 0 0) (s.getD 1 0), halves (s.getD 2 0) (s.getD 3 0), halves (s.getD 4 0) (s.getD 5 0)]

/-- Every hour (R379). -/
def doPatinaStore (d : Dev) : Dev := if hostUp d then patinaStore d else d

/-- Patina's stored state is loaded at power-up (R379, R380). -/
def patinaLoad (d : Dev) : Dev :=
  let d := forEach (List.range 200) d fun d n =>
    match entryData d 0x07 0 n 2 with
    | some ws => modCat d fun k => { k with hand := smSet wordZero k.hand n (ws.getD 0 0),
                                            turns := smSet wordZero k.turns n (ws.getD 1 0 &&& 0xFFFF) }
    | none => modCat d fun k => { k with hand := smSet wordZero k.hand n 0, turns := smSet wordZero k.turns n 0 }
  let d := forEach allChans d fun d c =>
    match entryData d 0x0B 0 c.val 5 with
    | some ws =>
      let w (i : Nat) (hi : Bool) : Nat := halfOf (ws.getD i 0) hi
      let d := modTim d c fun _ =>
        { spreadE := w 0 false, spreadT := w 0 true, base := some (w 1 false, w 1 true), cur := (w 2 false, w 2 true) }
      let o := [sx 16 (w 3 false) * 4096, sx 16 (w 3 true) * 4096, sx 16 (w 4 false) * 4096]
      modCh d c fun k => { k with cmp := { k.cmp with seen := [[], [], []], ofs := o } }
    | none => modCh d c fun k => { k with tim := {}, cmp := { k.cmp with seen := [[], [], []], ofs := [0, 0, 0] } }
  let sp := match entryData d 0x0C 0 0 3 with
    | some ws => (List.range 6).map fun i => halfOf (ws.getD (i / 2) 0) (i % 2 == 1)
    | none => [0, 0, 0, 0, 0, 0]
  patinaOut (modCat d fun k => { k with spread := sp, tables := [] })

end Sys2Proof.Machine
end

