-- ==== Sys2Proof/Machine/Measure.lean ====
section
/-! DEFINITION. The measurement path (R103 to R132): modulator samples, filters, line-cycle integration, the integrators and their clear, the auxiliary input, the reserve pair's rotation and periodic records. -/

namespace Sys2Proof.Machine

open Sys2Proof

/-! ### Modulator samples (R104, R107, R113, R117, R119) -/

/-- The limits of a calibrated V sample in 0.25 µV (R104). -/
def vLow : Int := -26214400
/-- The upper limit. -/
def vHigh : Int := 26213600

/-- The current of the converter full scale in 100 nA: 131.072 mV over gain and shunt (R103). -/
def iFull (d : Dev) (c : Chan) : Int := ((1310720000000000 / max 1 (shuntGain d c) : Nat) : Int)

/-- The rated current range of a channel in 100 nA: 125 mV over gain and shunt (R103, R104). -/
def iRange (d : Dev) (c : Chan) : Nat := 1250000000000000 / max 1 (shuntGain d c)

/-- Five cascaded sums after a sample. -/
def cicStep (k : Cic) (x : Int) : Cic :=
  let a1 := k.a1 + x
  let a2 := k.a2 + a1
  let a3 := k.a3 + a2
  let a4 := k.a4 + a3
  ⟨a1, a2, a3, a4, k.a5 + a4⟩

/-- Where the integrators saturate: 9.2 x 10^18 nC and µJ in their own units (R114). -/
def qMax : Int := 920000000000000000000000
/-- The limit of the energy integrator. -/
def eMax : Int := 3680000000000000000000000000000000

/-- A current sample enters the totals of the channel's group (R31). -/
def groupAdd (d : Dev) (c : Chan) (i : Int) : Dev :=
  modMeas (befSave d (leadOf d c)) (leadOf d c) fun m => { m with cum := { m.cum with sg := m.cum.sg + i } }

/-- A shunt value that waits takes effect at a modulator sample boundary (R361); without one every current result reads 0 (R104). -/
def shuntTake (d : Dev) (c : Chan) : Dev :=
  match (ch d c).meas.shuntNew with
  | some r =>
    let d := modMeas (wr d (chBlk c) CH_SHUNT r) c fun m => { m with shuntNew := none }
    if r = 0 then setFld (wr d (chBlk c) CH_PI 0) (chBlk c) CH_UNC 31 16 0xFFFF else d
  | none => d

/-- The clear of the integrators at its boundary (R115, R116): every reference value kept against them is lowered by what they
held. -/
def qeClear (d : Dev) (c : Chan) : Dev :=
  let d := befSave d c
  let q := (ch d c).meas.q
  let e := (ch d c).meas.e
  let li (x : LineInt) : LineInt := { x with q0 := x.q0 - q, e0 := x.e0 - e }
  let st (x : Step) : Step := { x with q0 := x.q0 - q, e0 := x.e0 - e }
  let co (x : Colo) : Colo := { x with q0 := x.q0 - q, e0 := x.e0 - e }
  let d := modMeas d c fun m => 
    { m with q := 0, e := 0, qeclr := none, ovrI := false, lineInt := m.lineInt.map li, uncs := [], absV := 0, absI := 0, hoV := 0, hoI := 0 }
  let d := modMach d c fun m => { m with step := m.step.map st }
  let d := modCh d (leadOf d c) fun k => { k with colo := k.colo.map co }
  let d := modCap d c fun k => { capClear k with qAt := k.qAt.map fun x => (x.1, x.2 - q) }
  let d := modLed d fun l => { l with e0 := l.e0.set c.val (l.e0.get c - e) c.isLt }
  let d := noteFlags d c 0x200
  if leadOf d c = c then d else noteFlags d (leadOf d c) 0x200

/-- Whether a clear waits whose boundary the present one can be (R115). -/
def qeDue (d : Dev) (c : Chan) : Bool := match (ch d c).meas.qeclr with | some x => decide (x ≤ d.tb.mono) | none => false

/-- The clear takes place at a modulator sample boundary (R115). -/
def doQeApply (c : Chan) (d : Dev) : Dev := if onGrid d (fieldNow d) 64 && qeDue d c then qeClear d c else d

/-- A write of CH_MCTL (R115). -/
def mctlWrite (d : Dev) (c : Chan) (v : Word) : Dev :=
  if bit v 0 then modMeas d c fun m => { m with qeclr := m.qeclr.or (some d.tb.mono) } else d

/-- Whether an aux slot stands in for the precision V converter at the present instant: 500 µs from its start (R118). -/
def inSlot (d : Dev) (c : Chan) : Bool :=
  match (ch d c).meas.auxFrom with
  | some t => decide (tsDiff (fieldNow d) t < 500 * (tapsPerUs : Nat))
  | none => false

/-- The calibrated fast V at a modulator sample boundary in 0.25 µV (R119): interpolated between the last result of the fast pair, whose
code counts 200 µV, and `fv`, its first result at or after the boundary. -/
def fastV (d : Dev) (c : Chan) (fv : BitVec 16) : Int × Dev :=
  let frac := (extPeriods d (fieldNow d) + (256 - 10 * c.inBank)) % 256
  let a := sx 16 (fld d (chBlk c) CH_FAST 15 0)
  if frac = 0 then (fv.toInt * 800, d) else meanUnits d (a * 204800 + (fv.toInt - a) * (800 * frac : Nat)) 256

/-- A V sample after the aux slot and the full scale: its value and whether it reached the full scale (R104, R119). -/
def vSample (d : Dev) (c : Chan) (v : Int) (fv : BitVec 16) : (Int × Bool) × Dev :=
  if inSlot d c then let x := fastV d c fv; ((x.1, false), x.2) else ((clampI vLow vHigh v, decide (v ≤ vLow ∨ vHigh ≤ v)), d)

/-- An I sample after the full scale: 0 without a shunt (R104). -/
def iSample (d : Dev) (c : Chan) (i : Int) : Int × Bool :=
  if noShunt d c then (0, false) else let f := iFull d c; (clampI (-f) f i, decide (f ≤ i.natAbs))

/-- An overrange of V is noted: CH_MSTS, the flags of R132, and its instant. -/
def overV (d : Dev) (c : Chan) : Dev :=
  modMeas (noteFlags (raEvent d (chBlk c) CH_MSTS 0x4) c 0x80) c fun m => { m with ovrVAt := some d.tb.mono }

/-- An overrange of I is noted, in the results of the leader of its group too, whose current it is part of (R31, R117, R132). -/
def overI (d : Dev) (c : Chan) : Dev :=
  let d := noteFlags (raEvent d (chBlk c) CH_MSTS 0x8) c 0x100
  let d := if leadOf d c = c then d else modMeas (noteFlags d (leadOf d c) 0x100) (leadOf d c) fun m => { m with ovrGAt := some d.tb.mono }
  modMeas d c fun m => { m with ovrIAt := some d.tb.mono, ovrGAt := some d.tb.mono, ovrI := true }

/-- The charge of a channel at the sample instants of its capture decimator, kept for the Mould tests (R246). -/
def qAtPush (d : Dev) (c : Chan) : Dev :=
  let p := capP d c
  let r := (extTaps d (fieldNow d) + 3 * p / 2) % p
  if (p - r) % p < 10240 then
    modCap d c fun k => { k with qAt := ((d.tb.mono, (ch d c).meas.q) :: k.qAt).take 3 }
  else d

/-- A sample of I as shunt voltage, in 2^-23 of the converter full scale over 156,250,000, which 100 nA, nΩ and the gain make whole (R227).
Without a shunt value the command's sample is that voltage itself, in 2^-23 of the full scale (R104, log 70). -/
def shuntCode (d : Dev) (c : Chan) (i y : Int) : Int :=
  if noShunt d c then clampI (-8388608) 8388608 i * 156250000
  else if iFull d c ≤ y then 1310720000000000
  else if y ≤ -iFull d c then -1310720000000000
  else y * (shuntGain d c : Int)

/-- The consumers of a modulator sample in L0 and L1 (R31, R104, R107, R110, R113). -/
def modTake (m : Mem) (d : Dev) (c : Chan) (v i : Int) (fv : BitVec 16) : Dev :=
  let d := mouldCharge m (capCharge (befSave d c) c) c
  let d := if qeDue d c then qeClear d c else d
  let d := qAtPush (shuntTake d c) c
  let vs := vSample d c v fv
  let d := vs.2
  let vs := vs.1
  let is := iSample d c i
  let x := vs.1
  let y := is.1
  let d := if vs.2 then overV d c else d
  let d := if is.2 then overI d c else d
  let d := noteFlags d c (contFlags d c)
  let u := uncNow d c
  let s := shuntCode d c i y
  let d := modMeas d c fun k =>
    { k with cum := { k.cum with n := k.cum.n + 1, sv := k.cum.sv + x, si := k.cum.si + y, nf := k.cum.nf + b2n (inSlot d c) },
             q := clampI (-qMax) qMax (k.q + y), e := clampI (-eMax) eMax (k.e + x * y),
             cicV := cicStep k.cicV x, cicI := cicStep k.cicI y, cicO := cicStep k.cicO 0, cicS := cicStep k.cicS s, lastV := x, lastI := y,
             uncs := uncAdd u k.uncs, absV := k.absV + x.natAbs, absI := k.absI + y.natAbs }
  let d := groupAdd d c y
  markerSample (shareTrack d c) c

/-- A modulator sample in L2: only the V converter runs (R281). -/
def modTakeV (d : Dev) (c : Chan) (v : Int) (fv : BitVec 16) : Dev :=
  let d := shuntTake (befSave d c) c
  let vs := vSample d c v fv
  let d := vs.2
  let vs := vs.1
  let d := if vs.2 then overV d c else d
  let d := noteFlags d c (contFlags d c)
  modMeas d c fun k =>
    { k with cum := { k.cum with n := k.cum.n + 1, sv := k.cum.sv + vs.1, nf := k.cum.nf + b2n (inSlot d c) }, cicV := cicStep k.cicV vs.1, lastV := vs.1 }

/-- The channel's source switches between its own pair and the reserve pair (R122): CH_MSTS.SERVED and the HANDOVER flag. -/
def serve (d : Dev) (c : Chan) (reserve : Bool) : Dev :=
  warmUpdate (setFlag (noteFlags d c 0x8) (chBlk c) CH_MSTS 18 reserve) c

/-- What takes place at a modulator sample boundary before its sample: POST records of intervals that end there (R131, R188), and a return
to the channel pair (R128). -/
def modBoundary (d : Dev) (c : Chan) : Dev :=
  let due := (ch d c).meas.posts.filter fun x => decide (x < d.tb.mono)
  let d := modMeas d c fun k => { k with posts := k.posts.filter fun x => !decide (x < d.tb.mono) }
  let d := forEach due d fun d _ => postRecord d c
  match (ch d c).meas.serveNew with
  | some r => serve (modMeas d c fun k => { k with serveNew := none }) c r
  | none => d

/-- A modulator sample of a channel: once at each modulator sample boundary, none in L3 (R113, R114, R281). -/
def doModSample (m : Mem) (c : Chan) (v i : Int) (fv : BitVec 16) (d : Dev) : Dev :=
  if !onGrid d (fieldNow d) 64 ∨ (ch d c).meas.modAt = some d.tb.mono then d else
  let d := modBoundary (modMeas d c fun k => { k with modAt := some d.tb.mono }) c
  if pstate d c.bank ≤ 1 then modTake m d c v i fv
  else if pstate d c.bank = 2 then modTakeV d c v fv
  else d

/-! ### The decimation filter (R107 to R109) -/

/-- The ratio and the order of the filter that a channel's state asks for (R107, R109, R281). -/
def filtWanted (d : Dev) (c : Chan) : Nat × Nat :=
  if pstate d c.bank = 2 then (1000000, if fld d (chBlk c) CH_MCFG 5 4 = 1 then 5 else 3)
  else
    match eisEng d c with
    | 0 => match (ch d c).mach.step with
      | some s =>
        (match s.started, s.kind with
        | true, .eis _ => (160, 3)
        | true, .pulse _ _ _ _ => (40, 3)
        | _, _ => stored d c)
      | none => stored d c
    | 1 => (160, 3)
    | 2 => (160, 3)
    | _ => (40, 3)
where
  /-- The settings of CH_MDEC and CH_MCFG. -/
  stored (d : Dev) (c : Chan) : Nat × Nat :=
    (max 40 (min 10000000 (fld d (chBlk c) CH_MDEC 23 0)), if fld d (chBlk c) CH_MCFG 5 4 = 1 then 5 else 3)

/-- The sum of an order: a3 for sinc3, a5 for sinc5. -/
def cicOf (k : Cic) (order : Nat) : Int := if order = 5 then k.a5 else k.a3

/-- The difference of the filter's order over values newest first; none while too few are there. -/
def filtDiff (order : Nat) (l : List Int) : Option Int :=
  match order, l with
  | 5, [a, b, c, d, e, f] => some (a - 5 * b + 10 * c - 10 * d + 5 * e - f)
  | 3, [a, b, c, d] => some (a - 3 * b + 3 * c - d)
  | _, _ => none

/-- A settled output (R107): V and I in their units, and the sum of a group it leads. -/
def filtOut (d : Dev) (c : Chan) : Option (Int × Int × Int) :=
  let f := (ch d c).meas.filt
  match filtDiff f.order (f.hist.map fun x => x.1), filtDiff f.order (f.hist.map fun x => x.2.1),
      filtDiff f.order (f.hist.map fun x => x.2.2) with
  | some v, some i, some g => some (v, i, g)
  | _, _, _ => none

/-- What a settled output gives (R107, R108, R109, R188, R205, R254, R263): CH_PV and CH_PI with their uncertainties, the word pair
of a SNAP, the settle rule of a step, and an EIS or PULSE sample at the centre of its window. -/
def filtTake (d : Dev) (c : Chan) (sv si sg : Int) : Dev :=
  let f := (ch d c).meas.filt
  let n := f.ratio ^ f.order
  let win := f.order * f.ratio * 10240
  let within (x : Option Nat) : Bool := match x with | some t => decide (d.tb.mono ≤ t + win) | none => false
  let ovV := within (ch d c).meas.ovrVAt
  let ovI := within (ch d c).meas.ovrIAt
  let ovG := within (ch d c).meas.ovrGAt
  let v := meanUnits d sv n
  let i := meanUnits v.2 (if noShunt d c then 0 else si) n
  let g := meanUnits i.2 (if noShunt d c then 0 else sg) n
  let s : UncIn := { noise := .rate f.ratio, smp := f.order * f.ratio, fast := f.fast.headD 0 - f.fast.getLastD 0,
                     warm := flag d (chBlk c) CH_MSTS 19 }
  let uv := uncOf g.2 c ovV false .v v.1 s
  let ui := uncOf uv.2 c (noShunt d c || ovI || decide (pstate d c.bank = 2)) false .i i.1 s
  let d := wr ui.2 (chBlk c) CH_UNC (BitVec.ofNat 32 (ui.1 * 0x10000 + uv.1))
  let d := wr d (chBlk c) CH_PV (satWord v.1)
  let d := if pstate d c.bank = 2 then d else wr d (chBlk c) CH_PI (satWord i.1)
  let d := modMeas d c fun k => { k with vNew := true }
  let p := (rd d (chBlk c) CH_PV, rd d (chBlk c) CH_PI)
  let from_ := d.tb.mono - win
  let settle (s : Step) : Step := if s.started && decide (s.startMono ≤ from_) then { s with settled := true } else s
  let d := modMach d c fun k =>
    { k with snapOut := match k.wait with | .snap _ => k.snapOut.or (some p) | _ => k.snapOut, step := k.step.map settle }
  let i0 := if leadOf d c = c then g.1 else i.1
  eisSample d c (tsAdd (fieldNow d) (-((win / 2 : Nat) : Int))) v.1 i0 (ovV || ovG)

/-- An output boundary of a channel's decimation filter (R107, R109): a new setting starts afresh at its own first one, until which the old
one runs on, and a settled output is taken. -/
def doFilterOutput (c : Chan) (d : Dev) : Dev :=
  let w := filtWanted d c
  let k := (ch d c).meas
  let cum := (measAt d (ch d c)).cum
  let same := decide (k.filt.ratio = w.1 ∧ k.filt.order = w.2)
  let now (order : Nat) : Int × Int × Int := (cicOf k.cicV order, cicOf k.cicI order, cicOf (grpCic d c) order)
  if pstate d c.bank = 3 then d
  else if !same && onGrid d (fieldNow d) (64 * w.1) then modMeas d c fun k => { k with filt := ⟨w.1, w.2, [now w.2], [cum.nf]⟩ }
  else if k.filt.ratio = 0 || !onGrid d (fieldNow d) (64 * k.filt.ratio) then d
  else
    let n := k.filt.order + 1
    let put (f : Filter) : Filter := { f with hist := (now f.order :: f.hist).take n, fast := (cum.nf :: f.fast).take n }
    let d := modMeas d c fun k => { k with filt := put k.filt }
    match filtOut d c with
    | some x => filtTake d c x.1 x.2.1 x.2.2
    | none => d

/-! ### Line-cycle integration (R110 to R112) -/

/-- An integration that waits for a line-cycle boundary starts there (R110, R188). -/
def lineStart (d : Dev) (c : Chan) : Dev :=
  match (ch d c).mach.wait with
  | .meas _ _ n =>
    if (ch d c).meas.lineInt.isSome || (ch d c).meas.lineRes.isSome then d else
    modMeas d c fun k => { k with lineInt := some (let b := measAt d (ch d c); { start := b.cum, q0 := b.q, e0 := b.e, endK := d.tb.fl.cyc + n, fl := 0 }) }
  | _ => d

/-- The running integration of a channel ends at this instant; an irregular one sets CH_MSTS.IRREG (R110, R112). -/
def lineEnd (d : Dev) (c : Chan) : Dev :=
  match (ch d c).meas.lineInt with
  | none => d
  | some x =>
    let fl := x.fl ||| contFlags d c
    let d := if fl / 0x10 % 2 = 1 then raEvent d (chBlk c) CH_MSTS 0x1 else d
    let b := measAt d (ch d c)
    modMeas d c fun k =>
      { k with lineInt := none, lineRes := some { sv := b.cum.sv - x.start.sv, si := b.cum.si - x.start.si, n := b.cum.n - x.start.n,
                                                  nf := b.cum.nf - x.start.nf,
                                                  dq := b.q - x.q0, de := b.e - x.e0, fl := fl } }

/-- The count of the line cycle that an instant lies in. -/
def cycleAt (d : Dev) (t : TS) : Nat := ltOf d t / 65536

/-- An integration reaches the line-cycle boundary at which it was due to end (R110). -/
def doLineEnd (c : Chan) (d : Dev) : Dev :=
  match (ch d c).meas.lineInt with
  | some x => if x.endK ≤ max d.tb.fl.cyc (cycleAt d (fieldNow d)) then lineEnd d c else d
  | none => d

/-- Every integration in progress ends irregularly: TS is stepped (R112). -/
def lineCutAll (d : Dev) : Dev := forEach allChans d fun d c => lineEnd (noteFlags d c 0x10) c

/-! ### Periodic records (R129, R286) -/

/-- The line cycle that begins in the modulator sample period that ends at an instant. -/
def lineEdge (d : Dev) (t : TS) : Option Nat :=
  let k := cycleAt d t
  if k = cycleAt d (tsAdd t (-10240)) then none else some k

/-- Whether an instant is a record boundary of a setting of CH_MREC (R129). -/
def recBoundary (d : Dev) (w : Word) (t : TS) : Bool :=
  let n := max 1 (bits w 15 0)
  onGrid d t 64 && (if bit w 31 then decide (extPeriods d t % (n * 640000) = 0)
    else match lineEdge d t with | some k => decide (k % n = 0) | none => false)

/-- The modulator samples of an OCV read (R286): the whole number of line cycles nearest to 100 ms. -/
def ocvSamples (d : Dev) : Nat :=
  let f := max 1 d.tb.nomF
  (2 * f + 10000) / 20000 * 10000000000 / f

/-- The record of a resting channel after a new V result: that V, no I, and the held integrators (R286). -/
def restRecord (d : Dev) (c : Chan) : Dev :=
  let noise : NoiseOf := if pstate d c.bank = 3 then .over (ocvSamples d) else .rate 1000000
  let fl := (measAt d (ch d c)).recFl ||| contFlags d c ||| auxFlags d c
  let d := makeRecord d c
    { type := 1, ts := fieldNow d, v := (rd d (chBlk c) CH_PV).toInt, i := 0, at30 := fld d (chBlk c) CH_T 15 0, fl := fl,
      step := (ch d c).mach.counter % 65536, noI := true, noise := noise }
  modMeas (recStart (postStart d c) c) c fun m => { m with vNew := false }

/-- A record boundary (R129): a periodic record is made unless OFF, in L2 and L3 only after a new V result, and a new setting takes
effect. -/
def doPeriodicRecord (c : Chan) (d : Dev) : Dev :=
  let w := (ch d c).meas.recSet
  if !recBoundary d w (fieldNow d) then d else
  let rest := decide (2 ≤ pstate d c.bank)
  let irreg := decide ((measAt d (ch d c)).recFl / 0x10 % 2 = 1) && !bit w 31
  let d :=
    if bit w 30 then d
    else if rest then (if (ch d c).meas.vNew then restRecord d c else d)
    else periodicRecord (if irreg then raEvent d (chBlk c) CH_MSTS 0x1 else d) c
  let new := rd d (chBlk c) CH_MREC
  if new = w then d else recStart (modMeas d c fun m => { m with recSet := new }) c

/-! ### The auxiliary input (R118 to R120, R250) -/

/-- Whether a channel runs EIS or PULSE, or has a capture armed: no aux slot, handover or handback takes place (R119, R123). -/
def measHeld (d : Dev) (c : Chan) : Bool :=
  capBusy (ch d c).cap || (match (ch d c).mach.step with
    | some s => s.started && (match s.kind with | .eis _ => true | .pulse _ _ _ _ => true | _ => false)
    | none => false)

/-- Whether an aux conversion follows an OCV read of the bank in L3 (R281). -/
def auxAfterOcv (d : Dev) (c : Chan) : Bool :=
  let o := (bk d c.bank).seq.ocvAt
  decide (pstate d c.bank = 3) && decide (o ≠ 0) && (match (ch d c).meas.auxAt with | some t => decide (t < o) | none => true)

/-- An aux slot starts (R118, R119). -/
def doAuxSlot (c : Chan) (d : Dev) : Dev :=
  let mode := fld d (chBlk c) CH_AUXCFG 1 0
  let per := max 1 (fld d (chBlk c) CH_AUXCFG 15 8)
  let t := fieldNow d
  let due := if pstate d c.bank = 3 then onGrid d t 64 && auxAfterOcv d c else onGrid d t (per * 64000000)
  if (mode = 1 ∨ mode = 2) ∧ due ∧ !measHeld d c then
    noteFlags (modMeas d c fun m => { m with auxFrom := some t }) c 0x2
  else d

/-- The thermistor temperature in 0.01 °C from a resistance in mΩ (R120): the unit below or above the exact value, and a free value where
the formula leaves the range of the field. -/
def ntcTemp (n x r26 beta : Nat) : Int :=
  if x = 10000 * r26 then 2500 else
  let t (l : Rat) : Rat := 2981500 * (beta : Rat) / (100 * (beta : Rat) + 29815 * l) - 27315
  let l := fixSpan (lnFix x (10000 * r26))
  let lo := (min (t l.1) (t l.2)).floor
  let hi := (max (t l.1) (t l.2)).ceil
  if lo < -27315 ∨ 32767 < hi then sx 16 (Config.free n) else lo + ((Config.free n % (hi - lo + 1).toNat : Nat) : Int)

/-- The aux result from the resistance in mΩ or the voltage in 100 µV: T and whether the thermistor is at fault (R120). -/
def auxT (d : Dev) (c : Chan) (x : Nat) : Int × Bool :=
  if fld d (chBlk c) CH_AUXCFG 1 0 = 2 then (min 25000 x, false)
  else
    let r26 := fld d (chBlk c) CH_AUXNTC 15 0
    let beta := fld d (chBlk c) CH_AUXNTC 31 16
    if r26 = 0 ∨ beta = 0 ∨ x < 100000 ∨ 2000000000 < x then (-0x8000, true)
    else (ntcTemp d.free x r26 beta, false)

/-- The temperature-rate limit at a new aux result (R250): a rise of LIM over N results ends the step and the channel goes safe, or is
only reported. -/
def rateLimit (d : Dev) (c : Chan) (t : Int) : Dev :=
  let w := rd d (bankOf c .mld) (MLD_TR + 4 * c.inBank)
  let n := max 1 (bits w 23 16)
  let lim := bits w 15 0
  let h := if t = -0x8000 then [] else (t :: (ch d c).meas.tHist).take 256
  let d := modMeas d c fun m => { m with tHist := h }
  match h[n]? with
  | some t0 =>
    if bit w 31 ∧ lim ≠ 0 ∧ (lim : Int) ≤ t - t0 then
      let d := raEvent d (bankOf c .mld) MLD_STS 0x10
      let d := fieldEvent d (bankOf c .mld) 0x8021 (locFA c 3 6) (BitVec.ofInt 32 (t - t0)) (BitVec.ofNat 32 n)
      let d := wakeBank d c.bank
      if bit w 30 then d else safeGroup d c 0x11 0
    else d
  | none => d

/-- The result of an aux slot (R120, R246, R250, R361). -/
def doAuxResult (m : Mem) (c : Chan) (x : Nat) (d : Dev) : Dev :=
  match (ch d c).meas.auxFrom with
  | none => d
  | some t0 =>
    if tsDiff (fieldNow d) t0 < 500 * (tapsPerUs : Nat) then d else
    let mode := fld d (chBlk c) CH_AUXCFG 1 0
    let d := modMeas d c fun k => { k with auxFrom := none }
    if mode ≠ 1 ∧ mode ≠ 2 then d else
    let r := auxT d c x
    let d := setFld d (chBlk c) CH_T 15 0 (ux 16 r.1)
    let d := modMeas d c fun k => { k with auxAt := some d.tb.mono }
    let d := if r.2 then raEvent d (chBlk c) CH_MSTS 0x20 else d
    let d := if 2 ≤ pstate d c.bank then mouldAux m d c else d
    if mode ≠ 1 then d else
    let d := if r.2 then d else coloTemp d c r.1
    let d := if r.2 then d else
      match entryData d 0x04 0 c.val 4, shuntOf d c with
      | some _, some w => modMeas d c fun k => { k with shuntNew := some w }
      | _, _ => d
    rateLimit d c r.1

/-! ### The reserve pair (R121 to R128) -/

/-- The reserve block of a bank. -/
abbrev bRSV (b : Bank) : Blk := .bank b .rsv

/-- The channel of the bank's turn. -/
def turnChan (d : Dev) (b : Bank) : Chan := b.chan (fld d (bRSV b) RSV_STS 23 19)

/-- Taps in a number of milliseconds. -/
def msTaps (n : Nat) : Nat := n * 1000 * tapsPerUs

/-- Whether a bank's rotation runs: PHASE 0 to 3, in L0 or L1 (R125, R127, R128). -/
def rotRuns (d : Dev) (b : Bank) : Bool := decide (fld d (bRSV b) RSV_STS 18 16 ≤ 3) && decide (pstate d b ≤ 1)

/-- Whether the turn's phase is the one named and has lasted a time. -/
def rotAt (d : Dev) (b : Bank) (p : RsvPhase) (ms : Nat) : Bool :=
  rotRuns d b && decide ((bk d b).rot.phase = p) && decide (msTaps ms ≤ d.tb.mono - (bk d b).rot.since)

/-- RSV_STS.PHASE takes a value. -/
def setPhase (d : Dev) (b : Bank) (n : Nat) : Dev := setFld d (bRSV b) RSV_STS 18 16 n

/-- The turn enters a phase. -/
def toPhase (d : Dev) (b : Bank) (p : RsvPhase) : Dev := modRot d b fun r => { r with phase := p, since := d.tb.mono }

/-- The turn enters a phase whose measurement begins after some ms. -/
def toPhaseIn (d : Dev) (b : Bank) (p : RsvPhase) (ms : Nat) : Dev :=
  modRot d b fun r => { r with phase := p, since := d.tb.mono + msTaps ms }

/-- The rotation rests between turns. -/
def rotIdle (d : Dev) (b : Bank) : Dev := toPhase (setFld (setPhase d b 0) (bRSV b) RSV_STS 23 19 31) b .idle

/-- The next turn starts, or the rotation stops when ROTEN is 0 (R121). -/
def nextTurn (d : Dev) (b : Bank) : Dev :=
  if !flag d (bRSV b) RSV_CTL 0 then rotIdle d b else
  let c := (bk d b).rot.next % 24
  let d := setPhase (setFld d (bRSV b) RSV_STS 23 19 c) b 1
  modRot d b fun r => { r with phase := .settle, since := d.tb.mono, turnAt := d.tb.mono, passed := r.selfOk, selfOk := false, noRef := false, next := (c + 1) % 24 }

/-- A turn starts while none runs (R121). -/
def doTurnStart (b : Bank) (d : Dev) : Dev :=
  if rotAt d b .idle 0 && flag d (bRSV b) RSV_CTL 0 then nextTurn d b else d

/-- The reserve pair is settled and the shadow starts (R121). -/
def doShadowStart (b : Bank) (d : Dev) : Dev := if rotAt d b .settle 100 then toPhase d b .shadow else d

/-- Whether a shadow difference exceeds the tolerance of R126. -/
def shadowBad (d : Dev) (c : Chan) (dv di : Int) : Bool :=
  let pv := (rd d (chBlk c) CH_PV).toInt.natAbs
  let pi := (rd d (chBlk c) CH_PI).toInt.natAbs
  decide (100 * pv + 200000000 < dv.natAbs * 1000000)
    || (!noShunt d c && decide (100 * pi + 50 * iRange d c < di.natAbs * 1000000))

/-- RSV_DV and RSV_DI show a shadow's differences, channel minus reserve. -/
def shadowShow (d : Dev) (b : Bank) (dv di : Int) : Dev := wr (wr d (bRSV b) RSV_DV (satWord dv)) (bRSV b) RSV_DI (satWord di)

/-- A handover's shadow differences enter the offsets of the integrators' uncertainties (R136). -/
def handSum (d : Dev) (c : Chan) (dv di : Int) : Dev :=
  modMeas d c fun k => { k with hoV := k.hoV + dv.natAbs * dv.natAbs, hoI := k.hoI + di.natAbs * di.natAbs }

/-- The handover (R121 to R123, R126, R136). -/
def doHandover (b : Bank) (dv di : Int) (d : Dev) : Dev :=
  let c := turnChan d b
  if !rotAt d b .shadow 2000 ∨ !onGrid d (fieldNow d) 64 ∨ measHeld d c then d else
  let d := handSum (shadowShow d b dv di) c dv di
  let d := if shadowBad d c dv di then raEvent d (bRSV b) RSV_STS 0x1 else d
  toPhaseIn (setPhase (serve d c true) b 2) b .offset 100

/-- A handover that has waited 60 s: the turn is skipped (R123). -/
def doTurnSkip (b : Bank) (d : Dev) : Dev :=
  if rotAt d b .shadow 62000 && measHeld d (turnChan d b) then
    nextTurn (bump (raEvent d (bRSV b) RSV_STS 0x2) (bRSV b) RSV_SKIP_CNT) b
  else d

/-- A channel pair is condemned (R126, R127): the reserve pair serves the channel for good, or the channel has a contained fault. -/
def condemn (d : Dev) (b : Bank) : Dev :=
  let c := turnChan d b
  let d := raEvent d (bRSV b) RSV_STS 0x8
  if fld d (bRSV b) RSV_SUBST 4 0 = 31 then
    let d := raEvent (setFld d (bRSV b) RSV_SUBST 4 0 c.inBank) (bRSV b) RSV_STS 0x4
    let d := raEvent d (chBlk c) CH_MSTS 0x2
    let d := toPhase (setPhase (setFlag d (chBlk c) CH_MSTS 18 true) b 4) b .idle
    raise d (bRSV b) 0x0302 (locFA c 3 0) (BitVec.ofNat 32 c.inBank) 0 false
  else chanFault (nextTurn (serve d c false) b) c 0x0107 (locFA c 3 0) 0 0 false 0x13 0

/-- Whether phase 2 of an external calibration still has the turn's channel to cross-check (R364). -/
def crossChecked (d : Dev) (b : Bank) : Bool :=
  match d.cat.cal with
  | some r => decide (r.phase = 2) && decide (b.val ∈ r.banks) && !decide ((turnChan d b).val ∈ r.seen)
  | none => false

/-- Whether the turn includes the CALREF phase (R121, R364). -/
def usesRef (d : Dev) (b : Bank) : Bool := !(bk d b).rot.noRef && (flag d (bRSV b) RSV_CTL 1 || crossChecked d b)

/-- A channel is cross-checked: it counts in DONE, and in XFAIL when its readings of CALREF0 and CALREF1 lie `x` in 0.25 µV and `y` in nV
from the certified values, beyond the shadow tolerance of R126 (R364). -/
def crossCheck (d : Dev) (c : Chan) (certV certI : Nat) (x y : Int) : Dev :=
  let fails := decide (100 * certV + 200000000 < x.natAbs * 1000000) || decide (100 * certI + 50 * 125000000 < y.natAbs * 1000000)
  let d := setFld d bCAT CAT_CALSTS 22 16 (satInc 96 (fld d bCAT CAT_CALSTS 22 16))
  let d := if fails then setFld d bCAT CAT_CALSTS 14 8 (satInc 96 (fld d bCAT CAT_CALSTS 14 8)) else d
  modCat d fun k => { k with cal := k.cal.map fun r => { r with seen := c.val :: r.seen } }

/-- The CALREF phase of a turn (R363, R364): a channel that phase 2 of a calibration has still to cross-check is checked; a reading beyond
200 ppm is discarded and the internal reference is repeated. -/
def refPhase (d : Dev) (b : Bank) (x y : Int) : Dev :=
  let certV := (rd d bCAT (CAT_REFV + 8 * (b.val / 4))).toNat
  let certI := (rd d bCAT (CAT_REFI + 8 * (b.val / 4))).toNat
  let d := if crossChecked d b then crossCheck d (turnChan d b) certV certI x y else d
  if 200 * certV < x.natAbs * 1000000 ∨ 200 * certI < y.natAbs * 1000000 then
    modRot (raEvent d bCAT CAT_STS 0x4) b fun r => { r with noRef := true, since := d.tb.mono }
  else toPhase d b .reconn

/-- A calibration phase of the channel pair ends (R121, R126, R363): `accept` says that the measured offset or gain lies within the
acceptance limits of the Catalogue, `x` and `y` how far the CALREF readings of a CALREF phase lie from their certified values. -/
def doCalPhase (b : Bank) (accept : Bool) (x y : Int) (d : Dev) : Dev :=
  let bad := !accept && (bk d b).rot.passed
  if rotAt d b .offset 4000 then if bad then condemn d b else toPhase d b .gain
  else if rotAt d b .gain 4000 then if bad then condemn d b else toPhase d b .check
  else if rotAt d b .check 4000 then
    let d := if usesRef d b then refPhase d b x y else toPhase d b .reconn
    if bad && rotAt d b .reconn 0 then condemn d b else d
  else d

/-- The channel pair reconnects with its new coefficients; the return shadow follows (R121). -/
def doReconnect (b : Bank) (d : Dev) : Dev := if rotAt d b .reconn 0 then toPhaseIn (setPhase d b 3) b .shadowBack 100 else d

/-- The handback (R121 to R123, R126, R359, R379). The reserve pair disconnects, and PHASE reads 0, 1 µs later. -/
def doHandback (b : Bank) (dv di : Int) (d : Dev) : Dev :=
  let c := turnChan d b
  if !rotAt d b .shadowBack 2000 ∨ !onGrid d (fieldNow d) 64 ∨ measHeld d c then d else
  let d := shadowShow d b dv di
  if shadowBad d c dv di && (bk d b).rot.passed then condemn d b else
  let d := patinaOut (pairCal (toPhase (serve d c false) b .selfCal) c.val b.val)
  warmUpdate d c

/-- The reserve pair fails (R128). -/
def reserveFail (d : Dev) (b : Bank) (failV : Bool) : Dev :=
  let sub := fld d (bRSV b) RSV_SUBST 4 0
  let c := turnChan d b
  let turn := decide (fld d (bRSV b) RSV_STS 18 16 ≠ 4) && decide (fld d (bRSV b) RSV_STS 23 19 ≠ 31)
  let d := raEvent d (bRSV b) RSV_STS 0x10
  let d := if turn && flag d (chBlk c) CH_MSTS 18 then modMeas d c fun k => { k with serveNew := some false } else d
  let d := modRot (setPhase (rotIdle d b) b 5) b fun r => { r with passed := false, selfOk := false }
  let d := raise d (bRSV b) 0x0301 (locBankFA b 6 (b2n (!failV))) (BitVec.ofNat 32 (b2n (!failV))) 0 true
  if sub = 31 then d else
  let d := setFlag d (chBlk (b.chan sub)) CH_MSTS 18 false
  chanFault d (b.chan sub) 0x0108 (locFA (b.chan sub) 3 0) 0 0 true 0x13 0

/-- A self-calibration of the reserve pair (R121, R128, R359). DEDUCED (log 107): Patina recomputes after it as after a handback. -/
def doSelfCal (b : Bank) (failV failI : Bool) (d : Dev) : Dev :=
  if fld d (bRSV b) RSV_STS 18 16 = 5 then d
  else if failV || failI then reserveFail d b failV
  else if rotAt d b .selfCal 100 then toPhase (setPhase (patinaOut (pairCal (modRot d b fun r => { r with selfOk := true }) (192 + b.val) b.val)) b 0) b .done
  else d

/-- The turn ends 20 s after its start, and the next one begins (R121). -/
def doTurnEnd (b : Bank) (d : Dev) : Dev :=
  if rotAt d b .done 0 && decide (msTaps 20000 ≤ d.tb.mono - (bk d b).rot.turnAt) then
    nextTurn (bump d (bRSV b) RSV_ROT_CNT) b
  else d

end Sys2Proof.Machine
end

