-- ==== Sys2Proof/Machine/Rest.lean ====
section
/-! DEFINITION. Resting banks (R281 to R286): the conditions for rest, the chosen state, entry, wake and resumption, and OCV reads. -/

namespace Sys2Proof.Machine

open Sys2Proof

/-- Whether a channel meets a condition of R282: disabled, its machine stopped, or in a REST step. -/
def restChan (d : Dev) (c : Chan) : Bool :=
  let m := (ch d c).mach
  let rests := match m.step with
    | some s => s.started && decide (s.kind = .rest) && m.queued.isNone
    | none => false
  !flag d (chBlk c) CH_CTRL 0 || (decide (m.st ∈ [.idle, .halt, .safehalt, .fault]) && m.startReq.isNone) || rests

/-- Whether a bank meets the conditions of R282 now: every channel, no capture under way, nothing playing or queued. -/
def restCond (d : Dev) (b : Bank) : Bool :=
  (bankChans b).all fun c =>
    restChan d c && !capBusy (ch d c).cap && (ch d c).cap.armAt.isNone && (ch d c).mach.playing.isNone && (ch d c).mach.queue.isEmpty

/-- A line-cycle boundary for a bank's rest: whether the conditions held through the cycle that ends, and the next one begins (R282). -/
def restLine (d : Dev) (b : Bank) : Dev :=
  let now := restCond d b
  modSeq d b fun q => { q with restHeld := q.restOk && now, restOk := now }

/-- The level-form conditions of the bank's running REST steps: their operands and the step's conditions (R283). -/
def restUntils (d : Dev) (b : Bank) : List (Chan × Step × UntilCond) :=
  (bankChans b).flatMap fun c =>
    match (ch d c).mach.step with
    | some s => if s.started && decide (s.kind = .rest) then s.setup.untils.map fun u => (c, s, u) else []
    | none => []

/-- Whether a level-form UNTIL keeps the bank at L1 or above: on I, P, Q, E, QS or ES (R283). -/
def restShallow (d : Dev) (b : Bank) : Bool :=
  (restUntils d b).any fun x => match x.2.2 with | .level op _ _ _ => decide (op ∈ [1, 2, 3, 4, 10, 11]) | .event _ _ => false

/-- The state a bank's LED_WAKE and its REST steps choose (R283). -/
def restChosen (d : Dev) (b : Bank) : Nat :=
  let tol := fld d bLED (LED_WAKE + 4 * b.val) 23 0
  let s := if 15000 ≤ tol then 3 else if 400 ≤ tol then 2 else if 20 ≤ tol then 1 else 0
  if restShallow d b then min 1 s else s

/-- The power state of a bank (LED_PSTATE). -/
def setPstate (d : Dev) (b : Bank) (s : Nat) : Dev := setFld d bLED LED_PSTATE (2 * b.val + 1) (2 * b.val) s

/-- The bank changes power state: the comparators' movement so far is counted in their old mode. When the modulators of I stop or start
again, the filters start afresh, and a phase of the rotation that L2 or L3 cut short restarts from its beginning (R125). -/
def pstateSet (d : Dev) (b : Bank) (s : Nat) : Dev :=
  let stands (n : Nat) : Bool := decide (2 ≤ n)
  let d := ledMark d
  let d := forEach (bankChans b) d fun d c =>
    let d := trimSettle d c
    if stands s == stands (pstate d b) && !stands s then d else filtRestart d c
  let d := if stands (pstate d b) && !stands s then modRot d b fun r => { r with since := d.tb.mono } else d
  let conts := (bankChans b).filter (cmpCont d)
  let d := forEach (bankChans b) (setPstate d b s) fun d c =>
    cmpRestart (conts.contains c) (modMeas d c fun m => { m with vNew := false }) c
  modSeq d b fun q => { q with ocvAt := d.tb.mono }

/-- A line-cycle boundary at which a bank enters its chosen power state (R282, R285). A choice of L0 is a wake. -/
def doPowerEntry (b : Bank) (d : Dev) : Dev :=
  let s := restChosen d b
  let off := sinceStart d.tb.fl (fieldNow d)
  if !(bk d b).seq.restHeld || !restCond d b || (bk d b).seq.wakeAt.isSome || decide (s = pstate d b)
      || decide (off < 0 ∨ 10240 ≤ off) then d
  else if s = 0 then wakeBank d b
  else pstateSet d b s

/-- Whether a wake cause of R285 that no command of its own brings is present: a level-form UNTIL that is met, an event-form UNTIL of a
REST step on a group trigger line that differs from the last snapshot, or a Mould violation. -/
def wakeCause (d : Dev) (b : Bank) : Bool :=
  (restUntils d b).any (fun x => match x.2.2 with
    | .level op _ _ _ => decide (op ≤ 0 ∨ op = 5) && untilHolds d x.1 x.2.1 x.2.2
    | .event code _ => decide (0x18 ≤ code ∧ code ≤ 0x1F)
        && decide (gtBits d / 2 ^ (code - 0x18) % 2 ≠ (ch d x.1).mach.snap.gt / 2 ^ (code - 0x18) % 2))
    || (bankChans b).any fun c => !(ch d c).cap.viols.isEmpty

/-- A wake cause wakes the bank (R285). -/
def doWake (b : Bank) (d : Dev) : Dev := if wakeCause d b then wakeBank d b else d

/-- The target of a WAITL or WAITT that a machine will meet after its REST step, in elapsed taps (R179, R284). A relative one lies after the
end of the step, which wakes the bank. -/
def waitAhead (m : Mem) (d : Dev) (c : Chan) : Option Int :=
  let k := (ch d c).mach
  let w := progWord m c.bank (bodyIndex d c k.pc)
  if fMod w 0 then none
  else if fOp w = 0x08 then
    some ((d.tb.mono : Int) + tsDiff (tsOfTaps (ltInstant d (wPair k (fA w)))) (fieldNow d))
  else if fOp w = 0x09 then some ((d.tb.mono : Int) + tsDiff (BitVec.ofNat 64 (wPair k (fA w))) (fieldNow d))
  else none

/-- The planned events of a bank in elapsed taps (R284): TIME limits of REST steps, scheduled commands, and waits after a REST step. -/
def plannedAt (m : Mem) (d : Dev) (b : Bank) : List Int :=
  let steps := (bankChans b).filterMap fun c =>
    match (ch d c).mach.step with
    | some s => if s.started && decide (s.kind = .rest) && decide (s.setup.time ≠ 0) then
        some (((s.startMono + s.setup.time * tapsPerUs : Nat) : Int)) else none
    | none => none
  let waits := (bankChans b).filterMap fun c =>
    match (ch d c).mach.step with
    | some s => if s.started && decide (s.kind = .rest) then waitAhead m d c else none
    | none => none
  let scheds := (bk d b).seq.pending.map fun s => (d.tb.mono : Int) + tsDiff (tsOfTaps (ltInstant d s.lt)) (fieldNow d)
  steps ++ waits ++ scheds

/-- A planned event lies within one resume time: the bank begins to wake (R284). -/
def doPlannedWake (m : Mem) (b : Bank) (d : Dev) : Dev :=
  let r : Int := ((resumeUs (pstate d b) * tapsPerUs : Nat) : Int)
  if (plannedAt m d b).any fun x => decide ((d.tb.mono : Int) ≤ x) && decide (x ≤ d.tb.mono + r) then wakeBank d b else d

/-- The bank is in L0 after its resume time (R285). -/
def doResume (b : Bank) (d : Dev) : Dev :=
  match (bk d b).seq.wakeAt with
  | some t =>
    if d.tb.mono < t then d else
    modSeq (pstateSet d b 0) b fun q => { q with wakeAt := none, restOk := false, restHeld := false }
  | none => d

/-- An OCV read in L3 every 10 s from the entry, with the V of each channel in 0.25 µV (R281, R286). -/
def doOcvRead (b : Bank) (vs : List Int) (d : Dev) : Dev :=
  let at_ := (bk d b).seq.ocvAt
  let runs := (d.tb.mono - at_) / msTaps 10000
  if pstate d b ≠ 3 ∨ runs = 0 then d else
  let d := modSeq d b fun q => { q with ocvAt := at_ + runs * msTaps 10000 }
  forEach (List.range 24) d fun d n =>
    let c := b.chan n
    let v := clampI vLow vHigh (vs.getD n 0)
    let ovr := decide (vs.getD n 0 ≤ vLow ∨ vHigh ≤ vs.getD n 0)
    let d := if ovr then overV d c else d
    let n := ocvSamples d
    let u := uncOf d c ovr false .v v { noise := .over n, smp := n, warm := flag d (chBlk c) CH_MSTS 19 }
    let d := wr (setFld u.2 (chBlk c) CH_UNC 15 0 u.1) (chBlk c) CH_PV (BitVec.ofInt 32 v)
    modMeas d c fun k => { k with vNew := true, lastV := v }

end Sys2Proof.Machine
end

