-- ==== Sys2Proof/Machine/Link.lean ====
section
/-! DEFINITION. The Shelf Link layer: acceptance and acknowledgement of frames (R309 to R311), replay (R310), routing (R312, R320), loss and restoration of ports (R325 to R327), and enumeration (R322 to R324). -/

namespace Sys2Proof.Machine

open Sys2Proof

/-- The device with Shelf Link's own state changed. -/
def modSl (d : Dev) (f : ShelfLink → ShelfLink) : Dev := { d with sl := f d.sl }

/-- The device's address, when it has one (SL_ADDR). -/
def slAddr (d : Dev) : Option Nat := if flag d bSL SL_ADDR 10 then some (fld d bSL SL_ADDR 9 0) else none

/-- Whether the device is a ring head or the line master (R307). -/
def isHead (d : Dev) : Bool := decide (fld d bSL SL_ROLE 1 0 = 1 ∨ fld d bSL SL_ROLE 1 0 = 2)

/-- Whether the device is the line master (R307). -/
def isMaster (d : Dev) : Bool := decide (fld d bSL SL_ROLE 1 0 = 2)

/-- A discarded frame or TRIG (R311, R316). -/
def slDiscard (d : Dev) : Dev := raEvent (bump d bSL SL_DISC_CNT) bSL SL_STS 0x1

/-- A failed check word of a port: SL_CRC_CNT and CRCERR (R310). -/
def slCrcFail (d : Dev) (q : Side) : Dev :=
  let d := match q with
    | .u => setFld d bSL SL_CRC_CNT 15 0 (satInc 0xFFFF (fld d bSL SL_CRC_CNT 15 0))
    | .d => setFld d bSL SL_CRC_CNT 31 16 (satInc 0xFFFF (fld d bSL SL_CRC_CNT 31 16))
  raEvent d bSL SL_STS 0x2

/-- Whether a frame is discarded although it passes its check word (R311). -/
def slBadFrame (f : SlFrame) : Bool :=
  decide (f.type.val = 0 ∨ f.type.val = 8) || decide (f.len.val ≠ f.payload.length)
    || (decide (f.dmode.val = 3) && decide (64 ≤ f.dst.val)) || decide (f.hops.val = 63)

/-- The acceptance of a frame on a port (R310, R311): whether it goes on to be performed or forwarded. -/
def slAccept (d : Dev) (q : Side) (f : SlFrame) : Bool × Dev :=
  let p := slPort d q
  if !p.lock then (false, d)
  else if !f.crcOk then
    let d := slCrcFail d q
    (false, modPort d q fun p => { p with nak := some (p.nextRx % 4096) })
  else if f.lseq.val ≠ p.nextRx % 4096 then
    (false, if (f.lseq.val + 4096 - p.nextRx % 4096) % 4096 < 2048 then modPort d q fun p => { p with nak := some (p.nextRx % 4096) } else d)
  else
    let d := modPort d q fun p => { p with nextRx := (f.lseq.val + 1) % 4096, acked := some f.lseq.val, nak := none }
    if slBadFrame f then (false, slDiscard (ownCycle d)) else (true, d)

/-- Whether a frame is a TIME message of a kind (R319). -/
def isTime (f : SlFrame) (kind : Nat) : Bool := decide (f.type.val = 9) && decide (bits (f.payload.getD 0 0) 31 28 = kind)

/-- SYNC and DELAY are stamped as they leave the port, not when they are queued (R155): `sent` are the frames that leave now. -/
def leaveStamp (d : Dev) (q : Side) (sent : List Sent) : Dev :=
  let has (kind : Nat) : Bool := sent.any fun s => isTime s.frame kind
  match q with
  | .d => if has 0 then { d with tb := { d.tb with slx := { d.tb.slx with t1 := some d.tb.now, t4 := none } } } else d
  | .u => if has 1 then { d with tb := { d.tb with slx := { d.tb.slx with t3 := some d.tb.now } } } else d

/-- Whether the device performs a frame (R312). -/
def slMine (d : Dev) (f : SlFrame) : Bool :=
  match f.dmode.val with
  | 0 => decide (slAddr d = some f.dst.val)
  | 1 => true
  | 2 => false
  | _ => decide (f.hops.val = f.dst.val % 64)

/-- The port a frame is forwarded out of, when it is (R312). -/
def slOut (d : Dev) (q : Side) (f : SlFrame) : Option Side :=
  match f.dmode.val with
  | 0 => if slAddr d = some f.dst.val then none else some (otherSide q)
  | 1 => some (otherSide q)
  | 2 => if egress d = q then none else some (egress d)
  | _ => if f.hops.val < f.dst.val % 64 then some (otherSide q) else none

/-- A frame forwarded with one more hop (R309). -/
def slForward (d : Dev) (q : Side) (f : SlFrame) : Dev :=
  match slOut d q f with
  | some o => queueFrame d o { f with hops := ⟨(f.hops.val + 1) % 64, Nat.mod_lt _ (by decide)⟩ } false
  | none => d

/-- A frame of one type that has arrived: forwarded and performed as R312 says. A frame of another type is not this event. -/
def slTake (d : Dev) (q : Side) (f : SlFrame) (is_ : Bool) (act : Dev → Dev) : Dev :=
  if !is_ then d else
  let a := slAccept d q f
  if !a.1 then a.2 else
  let mine := slMine a.2 f
  let d := slForward a.2 q f
  if mine then act d else d

/-! ### Egress (R320, R326, R327) -/

/-- The egress port of R320. -/
def egressHome (d : Dev) : Bool := !decide (fld d bSL SL_ADDR 5 0 < fld d bSL SL_SPLIT 6 0)

/-- The egress returns to its port once the replay buffer of the present one is empty (R327). -/
def egressSettle (d : Dev) : Dev :=
  if d.sl.back && (slPort d (egress d)).replay.isEmpty then modSl d fun s => { s with egressD := egressHome d, back := false } else d

/-- The egress switches to the other port (R326). -/
def egressSwitch (d : Dev) : Dev := raEvent (modSl d fun s => { s with egressD := !s.egressD, back := false }) bSL SL_STS 0x8

/-- A TOPO message of this device (R325): kind, port, ADDRMOVE, and for JOIN, REJOIN and FULL the words of an announcement. -/
def topoWords (d : Dev) (kind port move : Nat) (more : List Word) : List Word :=
  [BitVec.ofNat 32 (kind * 0x10000000 + port * 0x8000000 + move * 0x4000000 + fld d bSL SL_ADDR 9 0),
   d.tb.now.truncate 32, (d.tb.now >>> 32).truncate 32] ++ more

/-- A TOPO sent out of a port with DMODE 2 (R325). -/
def sendTopo (d : Dev) (q : Side) (kind port move : Nat) (more : List Word) : Dev :=
  if (slPort d q).lock then sendFrame (raEvent d bSL SL_STS 0x4) q 0xC false 0 3 2 0 0 (topoWords d kind port move more) else d

/-- The time source on port U is lost for a member of the large configuration, or a TSYNC source for others (R157): THOLD. -/
def timeHold (d : Dev) : Dev := setFlag d bTB TB_STS 18 true

/-- Whether the device is a member of the large configuration, whose host PLL follows port U while that is locked (R149). -/
def linkMember (d : Dev) : Bool := decide (fld d bTB TB_CTL 2 1 = 2) && !isHead d

/-- The host PLL has lost the reference in use: it holds its frequency, and time alignment follows R157 (R149, R434). -/
def pllHold (d : Dev) : Dev := timeHold (raEvent (setFlag d bDEV DEV_STS 18 false) bDEV DEV_STS 0x4)

/-- A side as a number: 0 U, 1 D. -/
def sideNo : Side → Nat
  | .u => 0
  | .d => 1

/-- A port is lost (R325, R326): reason 0 lock, 1 resends, 2 SL_CTL. Frames of DMODE 2 that it held go out of the new egress. -/
def portLoss (d : Dev) (q : Side) (reason : Nat) : Dev :=
  if (slPort d q).lost then d else
  let held := (slPort d q).replay.map (fun s => Waiting.mk s.frame false) ++ (slPort d q).wait
  let d := modPort d q fun p =>
    { p with lock := false, lost := true, replay := [], wait := [], nextTx := 0, nextRx := 0, acked := none, nak := none, trigTx := none }
  let d := setFlag d bSL (match q with | .u => SL_NBR_U | .d => SL_NBR_D) 31 false
  let d := raise d bSL 0x1201 (locHD 7 0) (BitVec.ofNat 32 (sideNo q)) (BitVec.ofNat 32 reason) true
  let d := if egress d = q then egressSwitch d else d
  let d := sendTopo d (otherSide q) 1 (sideNo q) 0 []
  let d := if egress d = q then d else
    (held.filter fun w => w.frame.dmode.val == 2).foldl (fun d w => queueFrame d (egress d) w.frame w.own) d
  if q = .u ∧ linkMember d then (if d.tb.refclk then timeHold d else pllHold d) else d

/-- A port has lost symbol lock for 2 µs (R325). -/
def doPortLoss (q : Side) (d : Dev) : Dev := if (slPort d q).lock then portLoss d q 0 else d

/-! ### Acknowledgement and replay (R310) -/

/-- The frames of a replay buffer from the one with a sequence number on; none when it is not there. -/
def fromLseq (l : Nat) : List Sent → Option (List Sent)
  | [] => none
  | s :: r => if s.frame.lseq.val = l then some (s :: r) else fromLseq l r

/-- An ACK: every frame up to LSEQ leaves the replay buffer (R310). -/
def doAck (q : Side) (lseq : Fin 4096) (d : Dev) : Dev :=
  match fromLseq lseq.val (slPort d q).replay with
  | some (_ :: r) =>
    let d := modPort d q fun p => pump (p.wait.length + 1) { p with replay := r, idleAt := d.tb.mono }
    egressSettle (leaveStamp d q ((slPort d q).replay.drop r.length))
  | _ => d

/-- Resends the frames from one on; 15 resends of a frame take the port down (R310). -/
def slResend (d : Dev) (q : Side) (keep again : List Sent) : Dev :=
  if again.any fun s => decide (15 ≤ s.resends) then portLoss d q 1
  else
    let d := wr d bSL SL_RPL_CNT (BitVec.ofNat 32 (min 0xFFFFFFFF ((rd d bSL SL_RPL_CNT).toNat + again.length)))
    modPort d q fun p => { p with replay := keep ++ again.map (fun s => { s with resends := s.resends + 1 }), idleAt := d.tb.mono }

/-- A NAK: a resend from LSEQ (R310). -/
def doNak (q : Side) (lseq : Fin 4096) (d : Dev) : Dev :=
  match fromLseq lseq.val (slPort d q).replay with
  | some r => slResend d q ((slPort d q).replay.take ((slPort d q).replay.length - r.length)) r
  | none => d

/-- 20 µs without an ACK: a resend from the oldest frame (R310). -/
def doReplayTimeout (q : Side) (d : Dev) : Dev :=
  let p := slPort d q
  if p.lock && !p.replay.isEmpty && decide (20 * tapsPerUs ≤ d.tb.mono - p.idleAt) then slResend d q [] p.replay else d

/-! ### Joining and enumeration (R322 to R324, R327, R330) -/

/-- The words 1 to 8 of this device's ANNOUNCE (R323). -/
def annWords (d : Dev) : List Word :=
  [rd d bSEC SEC_SERIAL_LO, rd d bSEC SEC_SERIAL_HI] ++ ((List.range 4).map fun i => rd d bSEC (SEC_KEYFP + 4 * i))
    ++ [rd d bSL SL_VER, BitVec.ofNat 32 (fld d bSL SL_ROLE 1 0 + 0xB000)]

/-- Sends a DISC ANNOUNCE out of port U (R323). DEDUCED (log entry 106): with DMODE 1, the one that passes every device up to the head. -/
def sendAnnounce (d : Dev) : Dev :=
  sendFrame (modSl d fun s => { s with annAt := d.tb.mono }) .u 0xB false 0 3 1 0 0 (0 :: annWords d)

/-- A device without an address announces itself when port U is trained (R323, R327). -/
def announceSelf (d : Dev) : Dev := if (slAddr d).isNone && !isHead d && (slPort d .u).lock then sendAnnounce d else d

/-- A port trains, or is refused when the majors differ by more than 1 (R323, R327, R330). -/
def doLinkTrained (q : Side) (n : Neighbour) (d : Dev) : Dev :=
  let p := slPort d q
  let k := match q with | .u => SL_NBR_U | .d => SL_NBR_D
  if d.pwr.reset || p.lock || !flag d bSL SL_CTL (sideNo q) then d
  else if n.vmaj.val < 2 ∨ 4 < n.vmaj.val then
    let d := raise (raEvent d bSL SL_STS 0x40) bSL 0x1202 (locHD 7 0) (BitVec.ofNat 32 (sideNo q)) (BitVec.ofNat 32 n.vmaj.val) true
    portLoss d q 0
  else
    let was := p.lost
    let d := modPort d q fun p => { p with lock := true, lost := false, nextTx := 0, nextRx := 0, acked := none, nak := none }
    let d := wr d bSL k (BitVec.ofNat 32 (0x80000000 + n.vmaj.val * 0x1000000 + n.vmin.val * 0x100000 + b2n n.isCtrl * 0x80000
      + n.role.val * 0x20000 + (match n.addr with | some a => 0x400 + a.val | none => 0)))
    let d := unliveOf (unliveOf d bSL 0x1201 (BitVec.ofNat 32 (sideNo q))) bSL 0x1202 (BitVec.ofNat 32 (sideNo q))
    let d := if q = .u ∧ linkMember d then setFlag d bDEV DEV_STS 18 true else d
    let d := if was then egressSettle (modSl (sendTopo d (otherSide q) 2 (sideNo q) 0 []) fun s => { s with back := true }) else d
    if q = .u ∨ was then announceSelf d else d

/-- Every 100 ms an unassigned device announces itself again (R323). -/
def doAnnounceRepeat (d : Dev) : Dev :=
  if msTaps 100 ≤ d.tb.mono - d.sl.annAt then announceSelf d else d

/-- Whether the head can still reach a position: no reported break lies before it (R324). -/
def reachable (d : Dev) (pos : Nat) : Bool :=
  !d.sl.pd.lost && !(d.sl.topoLost.any fun x => if x.2 then decide (x.1 < pos) else decide (x.1 ≤ pos))

/-- The position a head gives a device at a place of its ring, and whether it differs from the place (R324). -/
def headPosition (d : Dev) (place : Nat) (s0 s1 : Word) : Option (Nat × Bool) :=
  let holder := d.sl.taken.find? fun x => x.1 == place
  let free (p : Nat) : Bool := !(d.sl.taken.any fun x => x.1 == p)
  let mine : Bool := match holder with
    | some x => decide (x.2 = (s0, s1)) || !reachable d place
    | none => true
  if decide (place < 64) && mine then some (place, false)
  else (((List.range 63).map (· + 1)).find? free).map fun p => (p, true)

/-- A head assigns an address for an announcement (R323, R324). -/
def headAssign (d : Dev) (a : Announced) : Dev :=
  let s0 := a.payload.getD 1 0
  let s1 := a.payload.getD 2 0
  let ann := (a.payload.drop 1).take 8
  let ring := fld d bSL SL_RING 3 0
  match headPosition d (a.hops + 1) s0 s1 with
  | none => sendTopo (raEvent d bSL SL_STS 0x20) (egress d) 4 0 0 (ann ++ [0])
  | some (pos, moved) =>
    let addr := ring * 64 + pos
    let d := modSl d fun s => { s with taken := s.taken.filter (fun x => x.1 != pos && decide (x.2 ≠ (s0, s1))) ++ [(pos, s0, s1)] }
    let d := if moved then raEvent d bSL SL_STS 0x10 else d
    let d := sendFrame d .d 0xB false 0 3 3 ⟨a.hops % 1024, Nat.mod_lt _ (by decide)⟩ 0
      [BitVec.ofNat 32 (0x10000000 + fld d bSL SL_SPLIT 6 0 * 0x10000 + addr)]
    sendTopo d (egress d) 0 0 (b2n moved) (ann ++ [BitVec.ofNat 32 addr])

/-- Whether SL_RING has been written (R324, R49). -/
def ringWritten (d : Dev) : Bool := d.written.contains (regKey bSL SL_RING)

/-- A DISC ANNOUNCE reaches a ring head on port D (R323, R324). -/
def doDiscAnnounce (f : SlFrame) (d : Dev) : Dev :=
  if !isHead d || !decide (f.type.val = 0xB) || decide (bits (f.payload.getD 0 0) 31 28 ≠ 0) then d else
  let a := slAccept d .d f
  if !a.1 then a.2 else
  let d := slForward a.2 .d f
  if ringWritten d then headAssign d ⟨f.hops.val, f.payload⟩
  else if d.sl.heldAnn.length < 64 then modSl d fun s => { s with heldAnn := s.heldAnn ++ [⟨f.hops.val, f.payload⟩] }
  else d

/-- SL_RING has been written: a head takes its own address and assigns the announcements it holds (R324). -/
def ringWrite (d : Dev) : Dev :=
  if !isHead d then d else
  let d := wr d bSL SL_ADDR (BitVec.ofNat 32 (0x400 + fld d bSL SL_RING 3 0 * 64))
  let held := d.sl.heldAnn
  let d := modSl d fun s => { s with heldAnn := [], egressD := egressHome d }
  forEach held d headAssign

/-- A DISC ASSIGN loads the address and SPLIT; a device that has an address keeps it (R323, R324). -/
def doDiscAssign (f : SlFrame) (d : Dev) : Dev :=
  slTake d .u f (decide (f.type.val = 0xB) && decide (bits (f.payload.getD 0 0) 31 28 = 1)) fun d =>
    if (slAddr d).isSome then d else
    let w := f.payload.getD 0 0
    let d := wr d bSL SL_ADDR (BitVec.ofNat 32 (0x400 + bits w 9 0))
    let d := setFld d bSL SL_SPLIT 6 0 (min 64 (bits w 22 16))
    modSl d fun s => { s with egressD := egressHome d }

/-- A TOPO LOSS arrives (R324, R326): a device whose egress is that port switches it, and the message goes on unchanged. -/
def doTopoLoss (q : Side) (f : SlFrame) (d : Dev) : Dev :=
  if !decide (f.type.val = 0xC) || decide (bits (f.payload.getD 0 0) 31 28 ≠ 1) then d else
  let a := slAccept d q f
  if !a.1 then a.2 else
  let w := f.payload.getD 0 0
  let d := if isHead a.2 then modSl a.2 fun s => { s with topoLost := s.topoLost ++ [(bits w 5 0, bit w 27)] } else a.2
  let d := if egress d = q && !(slPort d (otherSide q)).lost then egressSwitch d else d
  slForward d q f

/-- A TOPO RESTORE arrives (R324, R327): the egress returns to its port, and a device without an address announces itself. -/
def doTopoRestore (q : Side) (f : SlFrame) (d : Dev) : Dev :=
  if !decide (f.type.val = 0xC) || decide (bits (f.payload.getD 0 0) 31 28 ≠ 2) then d else
  let a := slAccept d q f
  if !a.1 then a.2 else
  let w := f.payload.getD 0 0
  let d := modSl a.2 fun s => { s with topoLost := s.topoLost.filter fun x => !(x.1 == bits w 5 0 && x.2 == bit w 27), back := true }
  announceSelf (egressSettle (slForward d q f))

/-! ### TRIG messages in (R316 to R318) -/

/-- The acceptance of a TRIG: discarded with a KIND above 4, an invalid TS or two failed copies (R316). -/
def trigOk (d : Dev) (q : Side) (m : TrigMsg) : Bool × Dev :=
  if !(slPort d q).lock then (false, d)
  else if !m.crc1 && !m.crc2 then (false, raEvent (slDiscard (ownCycle d)) bSL SL_STS 0x2)
  else if 5 ≤ m.kind.val ∨ !tsValid m.ts then (false, slDiscard (ownCycle d))
  else (true, d)

/-- A TRIG of a kind arrives: it is forwarded out of the other port with one more hop, and acted on (R317). One of no kind is discarded whichever
it is taken for (R316). -/
def trigTake (d : Dev) (q : Side) (m : TrigMsg) (kind : Nat) (act : Dev → Dev) : Dev :=
  if m.kind.val ≠ kind ∧ m.kind.val < 5 then d else
  let a := trigOk d q m
  if !a.1 then a.2 else
  let fwd : TrigMsg := { m with hops := ⟨(m.hops.val + 1) % 64, Nat.mod_lt _ (by decide)⟩, crc1 := true, crc2 := true }
  let d := modPort a.2 (otherSide q) fun p => if p.lock then { p with trigTx := some fwd } else p
  act d

/-- The device group lines that a Shelf Link group is mapped onto (R318). -/
def gtMapped (d : Dev) (g : Nat) : List Nat :=
  (List.range 8).filter fun n => flag d bSL (SL_GTMAP + 4 * n) 31 && decide (fld d bSL (SL_GTMAP + 4 * n) 7 0 = g)

/-- What the field side does with a TRIG that reaches it (R238, R239, R318): captures take ARM and FIRE; PULSE, HIGH and LOW act on the
mapped lines. -/
def trigField (d : Dev) (m : TrigMsg) : Dev :=
  match m.kind.val with
  | 0 => trigCapture d m
  | 1 => trigCapture d m
  | 2 => gtPulses (gtMapped d m.group.toNat) d
  | 3 => gtMove (gtMapped d m.group.toNat)
      (fun d => { d with gtRemote := if d.gtRemote.contains m.group.toNat then d.gtRemote else d.gtRemote ++ [m.group.toNat] }) d
  | 4 => gtMove (gtMapped d m.group.toNat) (fun d => { d with gtRemote := d.gtRemote.filter (· != m.group.toNat) }) d
  | _ => d

/-- A TRIG crosses to the field side when that is up (R15, R318). -/
def trigCross (m : TrigMsg) (d : Dev) : Dev := if d.xc.up && d.pwr.fup then trigField d m else d

/-- A TRIG of one kind (R317, R318). -/
def doTrig (kind : Nat) (q : Side) (m : TrigMsg) (d : Dev) : Dev := trigTake d q m kind (trigCross m)

end Sys2Proof.Machine
end

