-- ==== Sys2Proof/Machine/Line.lean ====
section
/-! DEFINITION. Line time: announcements, line-cycle boundaries, and the line timer that follows LINE_SYNC (R142 to R148). -/

namespace Sys2Proof.Machine

open Sys2Proof

/-- The device with the time base changed. -/
def modTb (d : Dev) (f : TimeBase → TimeBase) : Dev := { d with tb := f d.tb }

/-- Whether a device keeps line time from its own line timer: the line master, a standalone device, and any device until its TS is
aligned (R143, R410). -/
def announcer (d : Dev) : Bool := isMaster d || decide (fld d bTB TB_CTL 2 1 = 0) || !flag d bTB TB_STS 19

/-- The taps in 1,000 seconds, so that a period in taps is this divided by a frequency in mHz. -/
def tapsPerKs : Nat := 102400000000000

/-- The scale in which Pm is kept, so that the mean of up to 16 intervals, c and the clamps are exact: 720,720 x 256. -/
def lineScale : Nat := 184504320

/-- The nominal period in taps, in units of 1/lineScale tap (TB_LINE_NOM). -/
def nomScaled (d : Dev) : Nat := tapsPerKs * lineScale / max 1 d.tb.nomF

/-- Whether an interval in taps lies within ±5 % of the nominal period (R147). -/
def nearNominal (d : Dev) (x : Int) : Bool :=
  decide ((95 * tapsPerKs : Nat) ≤ x * (100 * d.tb.nomF : Nat)) && decide (x * (100 * d.tb.nomF : Nat) ≤ (105 * tapsPerKs : Nat))

/-- A number of taps in units of 1/lineScale, rounded to a whole tap. -/
def toTaps (x : Int) : Int := (x + (lineScale / 2 : Nat)) / (lineScale : Nat)

/-- Pm: the mean of the last 16 intervals, clamped to ±5 % of the nominal period (R146); Pm as it was when there are none. -/
def meanPm (d : Dev) (ivals : List Nat) (old : Nat) : Nat :=
  if ivals.isEmpty then old else
  let m := ivals.foldl (· + ·) 0 * (lineScale / ivals.length)
  max (nomScaled d * 95 / 100) (min (nomScaled d * 105 / 100) m)

/-- The correction c of R146 in units of 1/lineScale tap: from the edge accepted for the running cycle. -/
def lineCorr (d : Dev) : Int :=
  match d.tb.accE.find? fun x => x.1 == d.tb.hl.cyc with
  | some x => clampI (-(d.tb.pm / 256 : Nat)) (d.tb.pm / 256 : Nat) (x.2 * (lineScale / 8 : Nat))
  | none => 0

/-- Whether the running cycle is the re-lock cycle whose end locks the line timer (R147). -/
def relocking (d : Dev) : Bool := d.tb.hl.relock && d.tb.lockDue

/-- The length of the cycle after the next boundary by the line timer's state (R146). -/
def lineLen (d : Dev) : Nat :=
  if d.tb.line = .locked ∨ relocking d then (max 1 (toTaps (d.tb.pm - lineCorr d))).toNat
  else if d.tb.line = .lost then (max 1 (toTaps d.tb.pm)).toNat
  else (max 1 (toTaps (nomScaled d))).toNat

/-- The re-lock cycle (R147): its length places the following boundary at E_last + OFS + n x Pm, n the smallest whole number that makes
the length at least Pm / 2. Answers the length and the cycle that E_last belongs to. -/
def relockLen (d : Dev) (b eLast : Int) (pm : Nat) : Nat × Nat :=
  let e := (eLast + (rd d bTB TB_LINE_OFS).toInt - b) * (lineScale : Nat)
  let n := (pm / 2 - e + pm - 1) / (max 1 pm : Nat)
  ((max 1 (toTaps (e + n * pm))).toNat, (d.tb.hl.cyc + 2 - n).toNat)

/-- The words of an ANNOUNCE after word 0 (R319). -/
def annPayload (a : LineAnn) : List Word :=
  let ts := tsOfTaps a.start
  [BitVec.ofNat 32 a.cyc, BitVec.ofNat 32 (a.cyc / 0x100000000), ts.truncate 32, (ts >>> 32).truncate 32, BitVec.ofNat 32 a.len,
   BitVec.ofNat 32 (b2n a.relock + 2 * b2n a.synth)]

/-- Word 0 of a TIME message: the kind, HOLD and the wrap count (R319). -/
def timeWord (d : Dev) (kind : Nat) : Word :=
  BitVec.ofNat 32 (kind * 0x10000000 + b2n (flag d bTB TB_STS 18) * 0x8000000 + wrapW d * 0x100)

/-- A TIME message of this device out of a trained port (R155, R319). -/
def sendTime (d : Dev) (q : Side) (kind : Nat) (more : List Word) : Dev :=
  if (slPort d q).lock then
    let n := (slPort d q).replay.length
    let d := sendFrame d q 9 false 0 3 3 0 0 (timeWord d kind :: more)
    leaveStamp d q ((slPort d q).replay.drop n)
  else d

/-- The announcement of the next cycle is fixed; the line master sends it out of both ports (R143, R146, R147, R319). -/
def announceNext (d : Dev) : Dev :=
  let l := d.tb.hl
  let b := l.start + lineLenOf l
  let synth := decide (d.tb.line ≠ .locked) && !relocking d
  let d := match d.tb.relock with
    | some x =>
      let r := relockLen d b x.1 x.2.1
      modTb d fun k => { k with hl := { l with next := some ⟨l.cyc + 1, b, r.1, true, synth⟩ }, lockDue := true, relock := none,
                                pm := x.2.1, ivals := x.2.2, lastAcc := some (r.2, x.1), rejE := [], edges := [] }
    | none => modTb d fun k => { k with hl := { l with next := some ⟨l.cyc + 1, b, lineLen d, false, synth⟩ } }
  let d := modTb d fun k => { k with annNew := k.hl.next }
  match d.tb.hl.next with
  | some a => if isMaster d then sendTime (sendTime d .d 3 (annPayload a)) .u 3 (annPayload a) else d
  | none => d

/-- LINE_ANNOUNCE at phase 0x8000 (R143). -/
def doLineAnnounce (d : Dev) : Dev :=
  let lt := hostLt d d.tb.now
  if announcer d && d.tb.hl.next.isNone && decide (0x8000 ≤ lt % 65536) && decide (lt / 65536 = d.tb.hl.cyc) then announceNext d else d

/-- The line timer at a boundary of the device that follows LINE_SYNC: edge counts, the lock at the end of a re-lock cycle, and
TB_LINE_NOM with the limits of Pm it moves (R146 to R148). -/
def lineTimerCycle (d : Dev) : Dev :=
  let acc := d.tb.accE.any fun x => x.1 == d.tb.hl.cyc
  let nom := (rd d bTB TB_LINE_NOM).toNat
  let locks := relocking d
  let d := modTb d fun k =>
    { k with noEdge := if k.edgeIn then 0 else k.noEdge + 1, noAccRun := if acc then 0 else k.noAccRun + 1, edgeIn := false,
             accE := k.accE.filter fun x => decide (k.hl.cyc < x.1), nomF := nom }
  let d := if locks then modTb d fun k => { k with line := .locked, lockDue := false, noEdge := 0, noAccRun := 0 } else d
  if d.tb.line = .locked then modTb d fun k => { k with pm := meanPm d k.ivals k.pm } else d

/-- The start of the next line cycle for its consumers: integrations that wait and the banks' rest (R110, R282). -/
def cycleStart (d : Dev) : Dev := forEach allBanks (forEach allChans d lineStart) restLine

/-- The cycle after the running one: the announced one, a re-lock of its own when its boundary is not the expected one; without an
announcement a synthesised one of the same length, and then the answer is true (R144). -/
def cycleNext (l : LineTime) : LineTime × Bool :=
  let due := l.start + lineLenOf l
  match l.next with
  | some a =>
    ({ cyc := a.cyc, start := a.start, len := max 1 a.len, synth := a.synth,
       relock := a.relock || decide (a.start ≠ due) || decide (a.cyc ≠ l.cyc + 1), old := some (l.start, lineLenOf l) }, false)
  | none => ({ cyc := l.cyc + 1, start := due, len := lineLenOf l, old := some (l.start, lineLenOf l), miss := l.miss + 1 }, true)

/-- An announcement taken: of the next cycle, or a late one of the running cycle, whose length holds and whose boundary, when it is
another, re-locks line time; then the answer is true (R144). -/
def annTake (l : LineTime) (a : LineAnn) : LineTime × Bool :=
  if l.cyc < a.cyc then ({ l with next := some a, miss := 0 }, false)
  else if a.cyc ≠ l.cyc then (l, false)
  else if a.start = l.start then ({ l with len := max 1 a.len, miss := 0 }, false)
  else ({ l with start := a.start, len := max 1 a.len, relock := true, miss := 0 }, true)

/-- The host's line time changes: TB_LINE_PER shows its running cycle, and RELOCK tells of a re-lock (R144, R147). -/
def hostLineSet (d : Dev) (l : LineTime) (relocked : Bool) : Dev :=
  let d := wr (modTb d fun k => { k with hl := l }) bTB TB_LINE_PER (BitVec.ofNat 32 (lineLenOf l))
  if relocked then raEvent d bTB TB_STS 0x2 else d

/-- The host's running cycle ends at the boundary that was announced, or after its length (R143, R144). -/
def hostCycleEnd (d : Dev) : Dev :=
  if tsDiff d.tb.now (tsOfTaps (lineEndOf d.tb.hl)) < 0 then d else
  let d := if announcer d && d.tb.hl.next.isNone then announceNext d else d
  let d := if announcer d then lineTimerCycle d else d
  let n := cycleNext d.tb.hl
  hostLineSet (if n.2 then raEvent d bTB TB_STS 0x40 else d) n.1 n.1.relock

/-- The field's integrations take a mark: 0x10 for a re-lock, 0x20 for a synthesised cycle (R112, R144). -/
def lineMark (d : Dev) (mark : Nat) : Dev := forEach allChans d fun d c => noteFlags d c mark

/-- The field side's running cycle ends in the same way (R144), and the ledger, its integrations and its banks take the new one. -/
def fieldCycleEnd (d : Dev) : Dev :=
  if !d.pwr.fup || decide (tsDiff (fieldNow d) (tsOfTaps (lineEndOf d.tb.fl)) < 0) then d else
  let l := (cycleNext d.tb.fl).1
  let d := ledgerLine d (lineEndOf d.tb.fl - d.tb.fl.start).toNat
  let d := modTb d fun k => { k with fl := l }
  let d := if l.relock then lineMark d 0x10 else d
  cycleStart (if l.synth then lineMark d 0x20 else d)

/-- LINE_CYCLE_BOUNDARY (R144): each side whose running cycle ends now starts the next one. -/
def doLineCycle (d : Dev) : Dev := fieldCycleEnd (hostCycleEnd d)

/-- A line announcement reaches the device (R144); it goes on to the field side in the TIME frames (R158). -/
def takeAnn (d : Dev) (a : LineAnn) : Dev :=
  let l := annTake d.tb.hl a
  hostLineSet (modTb d fun k => { k with annNew := some a }) l.1 l.2

/-- A line announcement reaches the field side (R143, R144, R158). -/
def fieldAnn (d : Dev) (a : LineAnn) : Dev :=
  let l := annTake d.tb.fl a
  let d := modTb d fun k => { k with fl := l.1 }
  if l.2 then lineMark d 0x10 else d

/-- The announcement a TIME ANNOUNCE carries; its boundary is read near the running cycle's (R140, R319). -/
def annOf (d : Dev) (w : List Word) : LineAnn :=
  let ts : TS := BitVec.ofNat 64 ((w.getD 3 0).toNat + 0x100000000 * (w.getD 4 0).toNat)
  { cyc := (w.getD 1 0).toNat + 0x100000000 * (w.getD 2 0).toNat, start := d.tb.hl.start + sinceStart d.tb.hl ts,
    len := (w.getD 5 0).toNat, relock := bit (w.getD 6 0) 0, synth := bit (w.getD 6 0) 1 }

/-- An ANNOUNCE arrives on port U: forwarded out of port D, and taken by a device that makes none itself (R143, R319). -/
def doAnnounce (f : SlFrame) (d : Dev) : Dev :=
  slTake d .u f (isTime f 3) fun d =>
    let d := if (slPort d .d).lock then queueFrame d .d f false else d
    if announcer d then d else takeAnn d (annOf d f.payload)

/-! ### Following LINE_SYNC (R145 to R148) -/

/-- Whether the line timer uses LINE_SYNC: the line master or a standalone device with TB_CTL.LSRC = 0. -/
def followsLine (d : Dev) : Bool := announcer d && !flag d bTB TB_CTL 3

/-- The intervals between consecutive edges, oldest first. -/
def gaps : List Int → List Int
  | a :: b :: r => (b - a) :: gaps (b :: r)
  | _ => []

/-- The last `n` members of a list. -/
def lastN {α : Type} (n : Nat) (l : List α) : List α := l.drop (l.length - n)

/-- Whether intervals lie within ±5 % of the nominal period and differ from one another by at most `tol` / `den` taps (R147). -/
def agree (d : Dev) (g : List Int) (tol den : Int) : Bool :=
  g.all fun x => nearNominal d x && g.all fun y => decide ((x - y) * den ≤ tol)

/-- A re-lock waits for the next announcement: the last edge, Pm as the mean interval, and the intervals (R147). -/
def relockWith (d : Dev) (es : List Int) : Dev :=
  let g := (gaps es).map Int.toNat
  let pm := g.foldl (· + ·) 0 * (lineScale / max 1 g.length)
  modTb d fun k => { k with relock := some (es.getLastD 0, pm, g), edges := [], rejE := [] }

/-- Whether edges of four consecutive cycles were all rejected and their intervals agree (R147, the timer LOCKED). -/
def relockRej (d : Dev) : Bool :=
  let r := lastN 4 d.tb.rejE
  decide (d.tb.line = .locked) && decide (r.length = 4) && (gaps (r.map fun x => (x.1 : Int))).all (· == 1)
    && agree d (gaps (r.map (·.2))) (d.tb.pm : Int) (256 * lineScale : Nat)

/-- Whether eight consecutive edges have intervals that agree within 1/256 of their mean (R147, the timer FREE or LOST). -/
def relockFree (d : Dev) : Bool :=
  let e := lastN 8 d.tb.edges
  let g := gaps e
  decide (d.tb.line ≠ .locked) && decide (e.length = 8) && agree d g (g.foldl (· + ·) 0) 1792

/-- The cycles an edge can belong to, with their boundaries and lengths: the one before the running one, the running one, the next one, and
the one after it, expected with the last known length (R145). -/
def edgeCycles (l : LineTime) : List (Nat × Int × Int) :=
  let p : Int := (lineLenOf l : Nat)
  let nx : Nat × Int × Int := match l.next with | some a => (a.cyc, a.start, ((max 1 a.len : Nat) : Int)) | none => (l.cyc + 1, l.start + p, p)
  (match l.old with | some o => [(l.cyc - 1, o.1, ((max 1 o.2 : Nat) : Int))] | none => [])
    ++ [(l.cyc, l.start, p), nx, (nx.1 + 1, nx.2.1 + nx.2.2, nx.2.2)]

/-- The cycle an edge is accepted for, with its error (R145). -/
def edgeCycle (d : Dev) (e : Int) : Option (Nat × Int) :=
  let x := e + (rd d bTB TB_LINE_OFS).toInt
  ((edgeCycles d.tb.hl).find? fun c => decide ((c.2.1 - x).natAbs * 8 ≤ c.2.2.natAbs)).map fun c => (c.1, c.2.1 - x)

/-- Whether Pm follows the accepted edges: the timer is LOCKED, or a re-lock has been announced that locks it (R146). -/
def tracks (d : Dev) : Bool := decide (d.tb.line = .locked) || d.tb.lockDue

/-- An accepted edge: TB_LINE_ERR, its error for the length of the next cycle, and its interval (R145, R146). -/
def edgeAccept (d : Dev) (e : Int) (k : Nat) (err : Int) : Dev :=
  let d := wr d bTB TB_LINE_ERR (satWord err)
  let iv := match d.tb.lastAcc with
    | some x => if x.1 + 1 = k then lastN 16 (d.tb.ivals ++ [(e - x.2).toNat]) else d.tb.ivals
    | none => d.tb.ivals
  modTb d fun t =>
    { t with accE := t.accE.filter (fun x => x.1 != k) ++ [(k, err)], lastAcc := some (k, e), ivals := iv, pm := if tracks d then meanPm d iv t.pm else t.pm,
             rejE := [] }

/-- A rejected edge: TB_LINE_REJ and LREJ (R145). -/
def edgeReject (d : Dev) (e : Int) : Dev :=
  modTb (raEvent (bump d bTB TB_LINE_REJ) bTB TB_STS 0x4) fun t => { t with rejE := lastN 4 (t.rejE ++ [(t.hl.cyc, e)]) }

/-- A rising edge of LINE_SYNC (R145, R147). -/
def doLineSync (d : Dev) : Dev :=
  if !followsLine d then d else
  let e := d.tb.hl.start + sinceStart d.tb.hl d.tb.now
  let d := match edgeCycle d e with
    | some x => edgeAccept d e x.1 x.2
    | none => edgeReject d e
  let d := modTb d fun t => { t with edgeIn := true, edges := if t.line = .locked then [] else lastN 8 (t.edges ++ [e]) }
  if d.tb.relock.isSome ∨ d.tb.lockDue then d
  else if relockRej d then relockWith d ((lastN 4 d.tb.rejE).map (·.2))
  else if relockFree d then relockWith d (lastN 8 d.tb.edges)
  else d

/-- LINELOSS: LOCKED to LOST after 3 cycles without an edge or 8 without an accepted one (R148). -/
def doLineLoss (d : Dev) : Dev :=
  if followsLine d && decide (d.tb.line = .locked) && (decide (3 ≤ d.tb.noEdge) || (decide (8 ≤ d.tb.noAccRun) && d.tb.relock.isNone)) then
    raEvent (modTb d fun t => { t with line := .lost, edges := [], rejE := [], relock := none }) bTB TB_STS 0x8
  else d

/-- TB_CTL.LSRC has been written as 1: the timer is FREE and ignores LINE_SYNC; a re-lock cycle that runs or is announced keeps its length
and locks nothing (R148). -/
def lsrcSet (d : Dev) : Dev :=
  modTb d fun t => { t with line := .free, lockDue := false, relock := none, edges := [], rejE := [], accE := [], ivals := [], lastAcc := none }

end Sys2Proof.Machine
end

