-- ==== Sys2Proof/Machine/Align.lean ====
section
/-! DEFINITION. Aligning a device to its time source (R149 to R157, R319, R434, R443), tap tables (R160 to R162), and the TDCs (R163 to R168). -/

namespace Sys2Proof.Machine

open Sys2Proof

/-! ### Steps and slews (R151) -/

/-- TB_CTL.CONF. -/
def tbConf (d : Dev) : Nat := fld d bTB TB_CTL 2 1

/-- Whether a device takes time from no source (R443). -/
def sourceless (d : Dev) : Bool := isMaster d || decide (tbConf d = 0)

/-- Whether a device takes time from Shelf Link: a member of the large configuration (R150, R155). -/
def takesLink (d : Dev) : Bool := linkMember d

/-- Whether a device takes time from TSYNC: a member of the small configuration or a ring head of the large one. -/
def takesTsync (d : Dev) : Bool := !sourceless d && !takesLink d

/-- Whether TS is aligned (TB_STS.ALIGNED). -/
def aligned (d : Dev) : Bool := flag d bTB TB_STS 19

/-- TB_CTL.TEN has become 1: a source device is aligned at once, with no step (R443). -/
def tenSet (d : Dev) : Dev := if sourceless d then setFlag d bTB TB_STS 19 true else d

/-- TS is stepped to the source's time with its wrap count; every integration in progress ends irregularly. The field side keeps its
own TS, and the running line cycle and the stamps that are still looked at keep their distance from now (R151, R158). -/
def timeStep (d : Dev) (o : Int) (w : Nat) : Dev :=
  let d := lineCutAll d
  let d := modTb d fun k =>
    { k with now := tsAdd k.now (-o), fofs := k.fofs + o, slew := 0, annNew := none, annFly := none, lockDue := relocking d,
             hl := { k.hl with start := k.hl.start - o, next := none, old := k.hl.old.map fun x => (x.1 - o, x.2) },
             trigOpen := k.trigOpen.map fun x => tsAdd x (-o),
             tgate := { k.tgate with last := k.tgate.last.map fun x => (tsAdd x.1 (-o), x.2.map fun y => tsAdd y (-o)) },
             sys := k.sys.map fun q => { q with last := q.last.map fun x => tsAdd x (-o) } }
  setFlag (raEvent (setFld d bTB TB_WRAPCNT 7 0 w) bTB TB_STS 0x10) bTB TB_STS 19 true

/-- A correction by the offset o (R151): a step while TS is not aligned, else a slew, which reports TSERR above 1,024 taps. -/
def timeCorrect (d : Dev) (o : Int) (w : Nat) : Dev :=
  let d := wr d bTB TB_TOFS (satWord o)
  if !aligned d then timeStep d o w else
  let d := modTb d fun k => { k with slew := o }
  if 1024 < o.natAbs then raise (raEvent d bTB TB_STS 0x20) bTB 0x1101 (locHD 0 0) (satWord o) 0 false else d

/-! ### TIME exchange on Shelf Link (R150, R155, R319) -/

/-- The two words of a TS. -/
def tsWords (t : TS) : List Word := [t.truncate 32, (t >>> 32).truncate 32]

/-- The TS in two words of a payload. -/
def tsAt (w : List Word) (n : Nat) : TS := BitVec.ofNat 64 ((w.getD n 0).toNat + 0x100000000 * (w.getD (n + 1) 0).toNat)

/-- Delay and offset from the four marks of an exchange, with the path's fixed asymmetry removed (R150). -/
def delayOffset (d : Dev) (path : Nat) (t1 t2 t3 t4 : TS) : (Int × Int) × Dev :=
  let x := meanUnits d (tsDiff t4 t1 - tsDiff t3 t2) 2
  let dly := x.1 - Config.pathAsym path
  ((dly, tsDiff t2 t1 - dly), x.2)

/-- A SYNC leaves port D every 2^16 periods, or arrives at port U (R155, R319). -/
def doTimeSync (f : SlFrame) (rx : Bool) (d : Dev) : Dev :=
  if rx then
    slTake d .u f (isTime f 0) fun d => modTb d fun k => { k with slx := { k.slx with t2 := some k.now, t3 := none } }
  else if (slPort d .d).lock && decide (tbConf d = 2) && flag d bTB TB_CTL 0 && onHostGrid d d.tb.now 65536 then sendTime d .d 0 []
  else d

/-- A DELAY leaves port U after a SYNC, or arrives at port D, where FOLLOW answers it (R155, R319). -/
def doTimeDelay (f : SlFrame) (rx : Bool) (d : Dev) : Dev :=
  if rx then
    slTake d .d f (isTime f 1) fun d =>
      match d.tb.slx.t1 with
      | some t1 =>
        let d := modTb d fun k => { k with slx := { k.slx with t4 := some k.now } }
        sendTime d .d 2 (tsWords t1 ++ tsWords d.tb.now)
      | none => d
  else if (slPort d .u).lock && d.tb.slx.t2.isSome && d.tb.slx.t3.isNone then sendTime d .u 1 []
  else d

/-- A FOLLOW gives t1 and t4: delay and offset, and the correction of a device that takes time from port U (R150, R151). -/
def doTimeFollow (f : SlFrame) (d : Dev) : Dev :=
  slTake d .u f (isTime f 2) fun d =>
    match d.tb.slx.t2, d.tb.slx.t3 with
    | some t2, some t3 =>
      let t1 := tsAt f.payload 1
      let t4 := tsAt f.payload 3
      let d := modTb d fun k => { k with slx := { k.slx with t2 := none, t3 := none } }
      if takesLink d && flag d bTB TB_CTL 0 && tsValid t1 && tsValid t4 then
        let x := delayOffset d 0 t1 t2 t3 t4
        timeCorrect (wr x.2 bTB TB_HOPDLY (satWord x.1.1)) x.1.2 (bits (f.payload.getD 0 0) 15 8)
      else d
    | _, _ => d

/-! ### TSYNC (R152, R153, R157) -/

/-- The multiple of 2^n periods nearest to an instant in taps. -/
def nearestPer (n : Nat) (x : Int) : Int := let p : Int := (160 * 2 ^ n : Nat); (x + p / 2) / p * p

/-- The device drives a pulse on TSYNC_OUT at a multiple of 2^PER periods; a written PER follows it (R152). A hop calibration waits for
its echo (R153). -/
def doTsyncOut (d : Dev) : Dev :=
  let t := d.tb.now
  if flag d bTB TB_TSYNC_CFG 8 && onHostGrid d t (2 ^ d.tb.perF) then
    modTb d fun k => { k with tsyncOut := some t, perF := fld d bTB TB_TSYNC_CFG 4 0, calSent := if k.calRun then some t else none }
  else d

/-- The length in taps of the pulse at an instant: 200 ns for a marker pulse, at multiples of 2^26 periods, else 50 ns (R152). -/
def tsyncLen (d : Dev) (t : TS) : Nat := if onHostGrid d t (2 ^ 26) then 20480 else 5120

/-- The level of TSYNC_OUT at an instant (R152). -/
def tsyncHigh (d : Dev) (t : TS) : Bool :=
  match d.tb.tsyncOut with
  | some x => decide (0 ≤ tsDiff t x) && decide (tsDiff t x < (tsyncLen d x : Nat))
  | none => false

/-- The time source of a device has returned: it slews again (R157). -/
def timeBack (d : Dev) : Dev := setFlag d bTB TB_STS 18 false

/-- The pending coarse time of TB_TSSET; 0 when none is. -/
def tsset (d : Dev) : TS := BitVec.ofNat 64 ((rd d bTB TB_TSSET_LO).toNat + 0x100000000 * (rd d bTB TB_TSSET_HI).toNat)

/-- A pulse on TSYNC_IN: an echo under calibration, else a TSSET load or an offset for a slew (R152, R153). -/
def doTsyncIn (marker : Bool) (d : Dev) : Dev :=
  let t := d.tb.now
  let d := modTb d fun k => { k with tsyncLast := some k.mono, tsyncGap := k.tsyncLast.map fun x => k.mono - x }
  if flag d bTB TB_TSYNC_CFG 9 then
    let lat := (rd d bTB TB_ECHO_LAT).toNat
    modTb (trigOutPulse d (d.tb.mono + lat) (if marker then 20480 else 5120)) fun k => { k with echoOut := some (tsAdd t lat) }
  else if !takesTsync d || !flag d bTB TB_CTL 0 then d
  else
    let skew := (rd d bTB TB_SKEW).toInt
    if marker && decide (tsset d ≠ 0) then
      let src := tsOfTaps (nearestPer 26 (tsTaps (tsset d)) + skew)
      timeCorrect (wr (wr d bTB TB_TSSET_LO 0) bTB TB_TSSET_HI 0) (tsDiff t src) (wrapW d)
    else if aligned d then
      timeCorrect d (tsDiff t (tsOfTaps (nearestPer 16 ((tsTaps t : Int) - skew) + skew))) (wrapW d)
    else d

/-- Taps without a pulse after which TSYNC counts as lost: 4 pulse periods, the period being the time between the last two pulses, or PER
until there are two (R157). -/
def tsyncLimit (d : Dev) : Nat := 4 * d.tb.tsyncGap.getD (160 * 2 ^ fld d bTB TB_TSYNC_CFG 4 0)

/-- Whether the time source is missing now (R157). -/
def sourceGone (d : Dev) : Bool :=
  if takesLink d then !(slPort d .u).lock
  else takesTsync d && (match d.tb.tsyncLast with | some t => decide (t + tsyncLimit d ≤ d.tb.mono) | none => true)

/-- TIME_SOURCE_LOSS (R157). -/
def doSourceLoss (d : Dev) : Dev := if flag d bTB TB_CTL 0 && sourceGone d then timeHold d else d

/-- TIME_SOURCE_RETURN (R157). -/
def doSourceReturn (d : Dev) : Dev := if sourceGone d then d else timeBack d

/-- REFCLK is absent or off frequency: the host PLL holds and time alignment follows R157 (R434), unless the PLL follows port U (R149). -/
def doRefLoss (d : Dev) : Dev :=
  if !d.tb.refclk then d else
  let d := modTb d fun k => { k with refclk := false }
  if linkMember d && (slPort d .u).lock then d else pllHold d

/-- REFCLK has returned: the host PLL locks again (R434), and the device resumes slewing when its source is there (R157). -/
def doRefReturn (d : Dev) : Dev :=
  if !hostUp d || d.tb.refclk then d else
  let d := modTb d fun k => { k with refclk := true }
  if flag d bDEV DEV_STS 18 then d else doSourceReturn (setFlag d bDEV DEV_STS 18 true)

/-- A write of TB_CAL: ELAT is stored, and START begins a calibration of 256 pulses (R153). -/
def tbCalWrite (d : Dev) (v : Word) : Dev :=
  let d := setFld d bTB TB_CAL 15 0 (bits v 15 0)
  if bit v 31 && !d.tb.calRun then
    setFlag (wr (modTb d fun k => { k with calRun := true, calSent := none, calDiffs := [] }) bTB TB_CALRES 0) bTB TB_CAL 30 true
  else d

/-- The rising edge of TRIG_IN at `t4` is the echo of the TSYNC_OUT pulse that the calibration waits for (R153). -/
def calEcho (d : Dev) (t4 : TS) : Dev :=
  match d.tb.calSent with
  | some t1 =>
    if d.tb.calRun ∧ d.tb.calDiffs.length < 256 then
      modTb d fun k => { k with calSent := none, calDiffs := k.calDiffs ++ [tsDiff t4 t1] }
    else d
  | none => d

/-- The calibration ends with its 256 differences t4 - t1: DLY is half the mean less ELAT, VALID when they lie within 16 taps (R153). -/
def doHopCal (d : Dev) : Dev :=
  let samples := d.tb.calDiffs
  if !d.tb.calRun || decide (samples.length ≠ 256) then d else
  let elat : Int := (fld d bTB TB_CAL 15 0 : Nat)
  let s := (samples.map fun x => x - elat).foldl (· + ·) 0
  let hi := samples.foldl max (samples.getD 0 0)
  let lo := samples.foldl min (samples.getD 0 0)
  let m := meanUnits d s 512
  let d := setFlag (modTb m.2 fun k => { k with calRun := false }) bTB TB_CAL 30 false
  wr d bTB TB_CALRES (BitVec.ofNat 32 (b2n (decide (hi - lo ≤ 16)) * 0x80000000 + (clampI 0 0xFFFFFF m.1).toNat))

/-! ### Tap tables (R160 to R162) -/

/-- The fractions of the table in force of a line. -/
def tapsOf (d : Dev) (l : Nat) : List Byte := (List.range 192).map fun j => smGet tapDefault d.tb.taps (l * 192 + j)

/-- A table is put in force for a line. -/
def tapsPut (d : Dev) (l : Nat) (tab : List Byte) : Dev :=
  modTb d fun k => { k with taps := tab.zipIdx.foldl (fun m x => smSet tapDefault m (l * 192 + x.2) x.1) k.taps }

/-- The differences of two tables, tap by tap. -/
def tapDiffs (a b : List Byte) : List Nat := (a.zip b).map fun x => ((x.1.toNat : Int) - x.2.toNat).natAbs

/-- The rms difference of the two newest tables of a line in 1/256 tap goes to Patina (R375). -/
def patinaTable (d : Dev) (l : Nat) (tab : List Byte) : Dev :=
  let d := match d.cat.tables.find? fun x => x.1 == l with
    | some x =>
      let s := (tapDiffs x.2 tab).foldl (fun a y => a + y * y) 0
      let r := isqrt (s * 65536 / 192)
      if h : l < 384 then
        let c : Chan := ⟨l / 2, by omega⟩
        modTim d c fun t => if l % 2 = 0 then { t with spreadE := r } else { t with spreadT := r }
      else modCat d fun k => { k with spread := k.spread.set (l - 384) r }
    | none => d
  modCat d fun k => { k with tables := k.tables.filter (fun x => x.1 != l) ++ [(l, tab)] }

/-- Whether hits are those of a whole calibration: 2^20 over the 192 physical taps (R161). -/
def hitsWhole (hits : List Nat) : Bool := decide (hits.length = 192) && decide (hits.foldl (· + ·) 0 = 1048576)

/-- The table from the hits each physical tap caught (R161): the widths, each the tap's share of the period, summed up to the tap; 0xFF
for a tap that none of the period reaches. -/
def tableOf (d : Dev) (hits : List Nat) : List Byte × Dev :=
  let r := hits.foldl (fun (x : List Byte × Nat × Dev) h =>
    let f := meanUnits x.2.2 ((x.2.1 * 160 : Nat) : Int) 1048576
    if x.2.1 = 1048576 then (x.1 ++ [0xFF], x.2.1, x.2.2)
    else (x.1 ++ [BitVec.ofNat 8 (min 159 f.1.toNat)], x.2.1 + h, f.2)) ([], 0, d)
  (r.1, r.2.2)

/-- A code-density table is formed: applied and stored, or rejected when it differs by more than 4 taps anywhere (R161, R343). -/
def codeTable (d : Dev) (l : Nat) (table : List Byte) : Dev :=
  let worst := (tapDiffs (tapsOf d l) table).foldl max 0
  let d := patinaTable d l table
  if 4 < worst then
    if h : l < 384 then
      let c : Chan := ⟨l / 2, by omega⟩
      raise (bump d (bankOf c .tdc) TDC_CDREJ) (bankOf c .tdc) 0x0901 (locFA c 5 (l % 2)) (BitVec.ofNat 32 c.val) (BitVec.ofNat 32 worst) false
    else d
  else
    let d := if h : l < 384 then bump d (bankOf (⟨l / 2, by omega⟩ : Chan) .tdc) TDC_CDCNT else d
    let knots := (List.range 48).map fun j => table.getD (4 * j) 0xFF
    tapWait (entryWrite d 0x08 (nodeBand d (lineNode l)) l 2 (bytesWords knots)) l table

/-- CODE_DENSITY_DONE: a line has caught 2^20 hits in one band (R161). -/
def doCodeDensity (line : Fin 390) (hits : List Nat) (d : Dev) : Dev :=
  if hitsWhole hits then
    let x := tableOf d hits
    codeTable x.2 line.val x.1
  else d

/-- Whether an instant is a modulator sample boundary of the side a line is on (R141, R162). -/
def lineGrid (d : Dev) (l : Nat) (t : TS) : Bool := if hostLine l then onHostGrid d t 64 else onGrid d t 64

/-- A waiting table applies at a modulator sample boundary of its side. On an edge-placing line each edge then moves from the tap the old
table gave it (R162). -/
def doTapApply (line : Fin 390) (t : TS) (d : Dev) : Dev :=
  let l := line.val
  if !lineGrid d l t then d else
  match d.tb.tapNew.find? fun x => x.1 == l with
  | some x =>
    let was := tapsOf d l
    let d := tapsPut (modTb d fun k => { k with tapNew := k.tapNew.filter fun y => y.1 != l }) l x.2
    if l < 384 ∧ l % 2 = 0 then modTb d fun k => { k with tapOld := k.tapOld.filter (fun y => y.1 != l) ++ [(l, was, 0)] } else d
  | none => d

/-- The stamp of a hit that the sampling clock edge at `t` finds at physical tap `j` of a line (R160); none where the table maps no
fraction to the tap. -/
def hitStamp (d : Dev) (l : Nat) (t : TS) (j : Fin 192) : Option TS :=
  let f := (smGet tapDefault d.tb.taps (l * 192 + j.val)).toNat
  if f < 160 then some (tsAdd t (-(f : Int))) else none

/-- The physical tap of a table whose fraction is nearest to `f`, the lower of two (R160). -/
def nearestTap (tab : List Byte) (f : Nat) : Nat :=
  ((tab.zipIdx.filter fun x => decide (x.1.toNat < 160)).foldl (fun (best : Option (Nat × Nat)) x =>
    let e := ((x.1.toNat : Int) - f).natAbs
    match best with
    | some b => if e < b.1 then some (e, x.2) else some b
    | none => some (e, x.2)) none).elim 0 Prod.snd

/-- The physical tap at which a channel's edge-placing line makes an edge at fraction `f` of a timing-clock period: the nearest one, which
after a change of table is approached from the old table's by one tap per PWM period (R160, R162). -/
def edgeTap (d : Dev) (c : Chan) (f : Nat) : Nat :=
  let new := nearestTap (tapsOf d (2 * c.val)) f
  match d.tb.tapOld.find? fun x => x.1 == 2 * c.val with
  | some x =>
    let old := nearestTap x.2.1 f
    if old < new then min new (old + x.2.2) else max new (old - x.2.2)
  | none => new

/-- The physical taps of the four edges of the running PWM period (R72, R160): DRB falls at the boundary, DRA rises after DTA and falls at
D, DRB rises after DTB. -/
def periodTaps (d : Dev) (c : Chan) : List Nat :=
  let f := (ch d c).force
  let duty := fld d (chBlk c) CH_DUTY 20 0
  match f.perStart with
  | some t0 => [0, f.perDt.1, duty, duty + f.perDt.2].map fun x => edgeTap d c ((tsAdd t0 (x : Nat)).toNat % 256)
  | none => []

/-- A hit at a sampling edge at or after a 64-period boundary is stamped with the table that applies from it on (R162). -/
def withStamp (line : Fin 390) (t : TS) (j : Fin 192) (act : TS → Dev → Dev) (d : Dev) : Dev :=
  if t.toNat % 256 ≠ 0 then d else
  let d := doTapApply line t d
  match hitStamp d line.val t j with
  | some x => act x d
  | none => d

/-! ### System TDCs (R163 to R166, R168) -/

/-- The configuration register of system TDC k. -/
def scfgOff (k : Nat) : Nat := 0x100 + 0x20 * k

/-- A system TDC. -/
def sysTdc (d : Dev) (k : Nat) : SysTdc := d.tb.sys.getD k {}

/-- The device with one system TDC changed. -/
def modSys (d : Dev) (k : Nat) (f : SysTdc → SysTdc) : Dev := modTb d fun t => { t with sys := t.sys.set k (f (t.sys.getD k {})) }

/-- The tag of an entry (R163). -/
def tdcTag (src : Nat) (rising interval subres order orphan hold : Bool) : BitVec 16 :=
  BitVec.ofNat 16 (src * 0x1000 + b2n rising * 0x800 + b2n interval * 0x400 + b2n subres * 0x200 + b2n order * 0x100
    + b2n orphan * 0x80 + b2n hold * 0x20)

/-- An entry offered to a queue of `cap` entries: stored, with OVF after drops, or dropped and counted (R164). -/
def tdcPush (q : SysTdc) (e : TdcEntry) : SysTdc :=
  if q.queue.length < 256 then
    { q with queue := q.queue ++ [{ e with tag := if q.ovf then e.tag ||| 0x40 else e.tag }], ovf := false }
  else { q with drop := satInc 0xFFFF q.drop, ovf := true }

/-- The tag of an interval entry for a pair: SUBRES for equal stamps, ORDER for a stop below its start (R163, R166). -/
def pairTag (src : Nat) (rising hold : Bool) (x : Int) : BitVec 16 :=
  tdcTag src rising true (decide (x = 0)) (decide (x < 0)) false hold

/-- A start for TDC k (R166): it pairs with an orphan stop of its own period that is the newest entry, else it waits, 16 at most. -/
def tdcStart (d : Dev) (k : Nat) (t : TS) : Dev :=
  modSys d k fun q =>
    match q.starts, q.queue.getLast? with
    | [], some e =>
      if e.tag.getLsbD 7 && decide (e.ts.toNat / 256 = t.toNat / 256) then
        let x := tsDiff e.ts t
        let keep := e.tag &&& 0x0060
        { q with queue := q.queue.dropLast ++ [⟨e.ts, x, pairTag (k + 1) (e.tag.getLsbD 11) false x ||| keep⟩] }
      else { q with starts := [t] }
    | s, _ =>
      if s.length < 16 then { q with starts := s ++ [t] }
      else { q with starts := s.drop 1 ++ [t], drop := satInc 0xFFFF q.drop, ovf := true }

/-- A selected edge of TDC k's input enters its queue: a stamp, or a stop that takes the oldest waiting start (R163, R166). -/
def tdcStop (d : Dev) (k : Nat) (rising : Bool) (t : TS) : Dev :=
  let hold := flag d bTB TB_STS 18
  if flag d bTB (scfgOff k) 1 then
    modSys d k fun q =>
      match q.starts with
      | s :: r => let x := tsDiff t s; tdcPush { q with starts := r } ⟨t, x, pairTag (k + 1) rising hold x⟩
      | [] => tdcPush q ⟨t, 0, tdcTag (k + 1) rising true false false true hold⟩
  else modSys d k fun q => tdcPush q ⟨t, 0, tdcTag (k + 1) rising false false false false hold⟩

/-- Whether an instant is inside the gate of TDC k (R165). -/
def tdcGate (d : Dev) (k : Nat) (t : TS) : Bool :=
  let len := max 1 (fld d bTB (scfgOff k) 23 16) * tapsPerUs
  match fld d bTB (scfgOff k) 11 10 with
  | 0 => true
  | 1 => decide (winNo d.tb.tgate t ≠ 0)
  | _ => d.tb.trigOpen.any fun o => decide (0 ≤ tsDiff t o) && decide (tsDiff t o < (len : Nat))

/-- Whether an EDGE field selects an edge: 1 rising, 2 falling, 3 both. -/
def edgeSel (e : Nat) (rising : Bool) : Bool := if rising then e % 2 == 1 else e / 2 % 2 == 1

/-- An edge on TGATE or TRIG_IN moves the gates (R165), and one on TRIG_IN may end a calibration pulse's way (R153). -/
def gateEdge (d : Dev) (n : Nat) (rising : Bool) (t : TS) : Dev :=
  if n = 3 then modTb d fun b => { b with tgate := if rising then winOpen b.tgate t else winClose b.tgate t }
  else if n = 2 ∧ rising then calEcho (modTb d fun b => { b with trigOpen := t :: b.trigOpen.take 1 }) t
  else d

/-- An edge stamped `t` on the input of system TDC k (R165, R166, R168). -/
def sysEdge (k : Fin 4) (rising : Bool) (t : TS) (d : Dev) : Dev :=
  let n := k.val
  let d := gateEdge d n rising t
  if !edgeSel (fld d bTB (scfgOff n) 5 4) rising then d else
  let near : Bool := match (sysTdc d n).last with | some l => decide ((tsDiff t l).natAbs < 320) | none => false
  if near then d else
  let d := modSys d n fun q => { q with last := some t }
  let d := forEach (List.range 4) d fun d j =>
    if flag d bTB (scfgOff j) 0 && flag d bTB (scfgOff j) 1 && decide (fld d bTB (scfgOff j) 9 8 = n) then tdcStart d j t else d
  if flag d bTB (scfgOff n) 0 && tdcGate d n t then tdcStop d n rising t else d

/-- SYSTEM_TDC_EDGE: the sampling clock edge at `t` finds an edge at physical tap `j` of the TDC's line (R160, R168). -/
def doSysEdge (k : Fin 4) (rising : Bool) (t : TS) (j : Fin 192) (d : Dev) : Dev :=
  withStamp ⟨384 + k.val, by omega⟩ t j (sysEdge k rising) d

/-- The four words of an entry (R163); an empty queue reads 0. -/
def tdcWord (e : Option TdcEntry) (n : Nat) : Word :=
  match e with
  | none => 0
  | some e =>
    let i := ux 48 e.intv
    match n with
    | 0 => e.ts.truncate 32
    | 1 => (e.ts >>> 32).truncate 32
    | 2 => BitVec.ofNat 32 i
    | _ => BitVec.ofNat 32 (e.tag.toNat * 0x10000 + i / 0x100000000)

/-- The head of a system queue is removed by a read of its word 3 (R164). -/
def sysPop (d : Dev) (k : Nat) : Dev := modSys d k fun q => { q with queue := q.queue.drop 1 }

/-! ### Channel TDCs (R163, R165, R167) -/

/-- The device with a channel TDC's host copy changed. -/
def modTdc (d : Dev) (c : Chan) (f : ChanTdc → ChanTdc) : Dev := modCh d c fun k => { k with tdc := f k.tdc }

/-- The configuration register of a channel TDC. -/
def ccfgOff (c : Chan) : Nat := TDC_CCFG + 4 * c.inBank

/-- The gate of a channel TDC at a stamp: 0 outside, else a number that names the window (R165). -/
def chanGate (d : Dev) (c : Chan) (s : TS) : Nat :=
  match fld d (bankOf c .tdc) (ccfgOff c) 6 5 with
  | 0 => 1
  | 1 => winNo (ch d c).tdc.steps s
  | _ => winNo (gtWindows d (fld d (bankOf c .tdc) (ccfgOff c) 9 7)) s

/-- A stamp of a selected edge is copied to the host: the first in a window and every (DEC + 1)th after it, 48 held at most (R167). -/
def chanCopy (d : Dev) (c : Chan) (rising : Bool) (s : TS) : Dev :=
  let k := bankOf c .tdc
  if !flag d k (ccfgOff c) 0 || !edgeSel (fld d k (ccfgOff c) 4 3) rising then d else
  let g := chanGate d c s
  if g = 0 then d else
  let n := if (ch d c).tdc.key = g then (ch d c).tdc.cnt else 0
  let d := modTdc d c fun q => { q with key := g, cnt := n + 1 }
  if n % (fld d k (ccfgOff c) 31 16 + 1) ≠ 0 then d
  else if (ch d c).tdc.queue.length < 48 then
    modTdc d c fun q =>
      { q with queue := q.queue ++ [⟨s, 0, tdcTag 8 rising false false false false (flag d bTB TB_STS 18) ||| (if q.ovf then 0x40 else 0)⟩],
               ovf := false }
  else raEvent (modTdc d c fun q => { q with drop := satInc 0xFFFF q.drop, ovf := true }) k TDC_STS (2 ^ c.inBank)

/-- SWT_EDGE: the sampling clock edge at `t` finds a transition on SWT at physical tap `j` of the channel's line. The tracker takes every
stamp, the host copy those it selects (R75, R160, R167). -/
def doSwtEdge (c : Chan) (rising : Bool) (t : TS) (j : Fin 192) (d : Dev) : Dev :=
  withStamp ⟨2 * c.val + 1, by omega⟩ t j (fun s d => chanCopy (swtTrack d c rising s) c rising s) d

/-- The head of a channel's host copies is removed by a read of its word 3 (R164). -/
def chanPop (d : Dev) (c : Chan) : Dev := modTdc d c fun q => { q with queue := q.queue.drop 1 }

end Sys2Proof.Machine
end

