-- ==== Sys2Proof/Machine/Protect.lean ====
section
/-! DEFINITION. The comparators, their actions, the hardware over-current shutdown, the self-check and the interlock (R287 to R304). -/

namespace Sys2Proof.Machine

open Sys2Proof

abbrev bCMP (b : Bank) : Blk := .bank b .cmp

/-- The offset of a register of channel c in the CMP block: `o` is that of channel 0. -/
def cmpOff (o : Nat) (c : Chan) : Nat := o + 0x20 * c.inBank

/-- The device with the comparators of a channel changed. -/
def modCmp (d : Dev) (c : Chan) (f : CmpSt → CmpSt) : Dev := modCh d c fun k => { k with cmp := f k.cmp }

/-- The device with the comparators of a bank changed. -/
def modCmpBk (d : Dev) (b : Bank) (f : CmpBank → CmpBank) : Dev := modBk d b fun k => { k with cmp := f k.cmp }

/-- Whether VALID of a channel is 1 (R295). -/
def cmpValid (d : Dev) (c : Chan) : Bool := flag d (bankOf c .cmp) (cmpOff CMP_STS c) 20

/-- Whether a channel is in a self-check: its outputs are held (R304). -/
def inCheck (d : Dev) (c : Chan) : Bool := (bk d c.bank).cmp.schk.any fun x => x.2.testBit c.inBank

/-- The bit of a comparator in CMP_STS: 0 OV, 1 UV, 2 OC, 3 RP. -/
def cmpNo : Comparator → Nat
  | .ov => 0
  | .uv => 1
  | .oc => 2
  | .rp => 3

/-- What an asserting comparator does while VALID is 1: the hardware over-current shutdown for OC, a contained fault for an enabled
action of OV, UV or RP (R297, R298). -/
def cmpAct (d : Dev) (c : Chan) (k : Comparator) : Dev :=
  let b := bankOf c .cmp
  let cfg := rd d b (cmpOff CMP_CFG c)
  match k with
  | .oc =>
    if bit cfg 4 then
      let d := raEvent (raEvent d b (cmpOff CMP_STS c) 0x10) (chBlk c) CH_STS 0x1
      chanFault d c 0x0104 (locFA c 4 2) (BitVec.ofNat 32 (fld d b (cmpOff CMP_ITH c) 9 0)) 0 true 0x14 0
    else d
  | .ov => if bit cfg 1 then chanFault (raEvent d b (cmpOff CMP_STS c) 0x10) c 0x0105 (locFA c 4 0) 0 0 true 0x13 0 else d
  | .uv => if bit cfg 2 then chanFault (raEvent d b (cmpOff CMP_STS c) 0x10) c 0x0105 (locFA c 4 1) 1 0 true 0x13 0 else d
  | .rp => if bit cfg 3 then chanFault (raEvent d b (cmpOff CMP_STS c) 0x10) c 0x0105 (locFA c 4 3) 3 0 true 0x13 0 else d

/-- The condition of a comparator's contained fault has ended (FLT_STS.LIVE). -/
def cmpRelease (d : Dev) (c : Chan) (k : Comparator) : Dev :=
  let b := chBlk (leadOf d c)
  let loc := locFA c 4 (cmpNo k)
  { d with live := d.live.filter fun z => !(decide (z.blk = b) && decide (z.loc = loc)) }

/-- VALID becomes 1: a comparator that is asserted counts as asserting now (R295, R297). -/
def cmpSetValid (d : Dev) (c : Chan) : Dev :=
  let d := setFlag (modCmp d c fun k => { k with onAt := none, dec := 0 }) (bankOf c .cmp) (cmpOff CMP_STS c) 20 true
  forEach [Comparator.oc, .ov, .uv, .rp] d fun d k => if flag d (bankOf c .cmp) (cmpOff CMP_STS c) (16 + cmpNo k) then cmpAct d c k else d

/-- Whether comparators in continuous operation have been powered for 1 µs, so that VALID is due (R295). -/
def cmpDue (d : Dev) (c : Chan) : Bool :=
  match (ch d c).cmp.onAt with
  | some x => cmpCont d c && !inCheck d c && decide (x + tapsPerUs ≤ d.tb.mono)
  | none => false

/-- In continuous operation VALID is set 1 µs after power-on (R295). -/
def cmpValidate (d : Dev) (c : Chan) : Dev := if cmpDue d c then cmpSetValid d c else d

/-- Precision V or I at a transition minus the effective threshold it passed, in 1/65536 code (R375). -/
def cmpOffset (d : Dev) (c : Chan) (k : Comparator) (out : Bool) : Int :=
  let b := bankOf c .cmp
  let s := (ch d c).cmp
  let cfg := rd d b (cmpOff CMP_CFG c)
  let vh : Int := if out then 0 else (bits cfg 14 10 : Nat)
  let ih : Int := if out then 0 else (bits cfg 19 15 : Nat)
  let vth (code : Nat) (o : Int) : Int := clampI 0 16368 (code * 16 + o) * 4096
  let v := ((ch d c).meas.lastV + 2000000) * 65536 / 28000
  let i := ((ch d c).meas.lastI.natAbs : Int) * 67108864 / max 1 (iFull d c)
  match k with
  | .ov => v - (vth (fld d b (cmpOff CMP_VTH c) 25 16) s.ov - vh * 65536)
  | .uv => v - (vth (fld d b (cmpOff CMP_VTH c) 9 0) s.uv + vh * 65536)
  | .oc => i - (vth (fld d b (cmpOff CMP_ITH c) 9 0) s.oc - ih * 65536)
  | .rp => 0

/-- A transition in continuous operation enters Patina's mean of the last 64 (R375). -/
def cmpSeen (d : Dev) (c : Chan) (k : Comparator) (out : Bool) : Dev :=
  if k = .rp then d else
  let n := cmpNo k
  let x := cmpOffset d c k out
  modCmp d c fun s =>
    let l := (x :: s.seen.getD n []).take 64
    { s with seen := s.seen.set n l, ofs := s.ofs.set n (l.foldl (· + ·) 0 / (max 1 l.length : Nat)) }

/-- A comparator output changes: the live bit, and while VALID is 1 the transition bit, CMP_TS and its actions; it wakes a resting bank
(R285, R288, R296 to R298). -/
def cmpChange (d : Dev) (c : Chan) (k : Comparator) (out : Bool) : Dev :=
  let b := bankOf c .cmp
  let n := cmpNo k
  if flag d b (cmpOff CMP_STS c) (16 + n) = out then d else
  let d := modCmp d c fun k => { k with was := some (d.tb.mono, cmpBefore d c) }
  let d := wakeBank (setFlag d b (cmpOff CMP_STS c) (16 + n) out) c.bank
  let d := if out then d else cmpRelease d c k
  if !cmpValid d c then d else
  let t := fieldNow d
  let d := wr (wr d b (cmpOff CMP_TS_LO c) (t.truncate 32)) b (cmpOff CMP_TS_HI c) ((t >>> 32).truncate 32)
  let d := raEvent d b (cmpOff CMP_STS c) (2 ^ n)
  if out then cmpAct d c k else d

/-- COMPARATOR_TRANSITION in continuous operation (R293, R296). -/
def doCmpTransition (c : Chan) (k : Comparator) (out : Bool) (d : Dev) : Dev :=
  if !cmpCont d c || inCheck d c then d else
  let d := trimSettle (cmpValidate d c) c
  let d := if cmpValid d c && decide (flag d (bankOf c .cmp) (cmpOff CMP_STS c) (16 + cmpNo k) ≠ out) then cmpSeen d c k out else d
  cmpChange d c k out

/-- SAMPLED_DECISION, 2 µs after a tick: all four outputs are decided and held until the next decision, trims move by one tap, and the
second decision after power-on sets VALID (R289, R292, R293, R295). -/
def doSampled (c : Chan) (ov uv oc rp : Bool) (d : Dev) : Dev :=
  if cmpCont d c || inCheck d c || !isTick d c.bank (tsAdd (fieldNow d) (-(2 * tapsPerUs : Nat))) then d else
  let d := cmpChange (cmpChange (cmpChange (cmpChange d c .oc oc) c .ov ov) c .uv uv) c .rp rp
  let d := trimMove d c 1
  match (ch d c).cmp.onAt with
  | some x =>
    if d.tb.mono < x + 2 * tapsPerUs then d
    else if 1 ≤ (ch d c).cmp.dec then cmpSetValid d c else modCmp d c fun k => { k with dec := k.dec + 1 }
  | none => d

/-! ### Self-check (R294, R295, R304) -/

/-- The comparators of a channel are powered from off: every output reads "below" and VALID waits for first decisions (R294, R295). -/
def cmpPowerOn (d : Dev) (c : Chan) : Dev :=
  let d := setFld (setFlag d (bankOf c .cmp) (cmpOff CMP_STS c) 20 false) (bankOf c .cmp) (cmpOff CMP_STS c) 19 16 0xA
  modCmp d c fun k => { k with onAt := some d.tb.mono, dec := 0 }

/-- A self-check of masked channels begins: VALID is cleared and BUSY set (R304). -/
def scBegin (d : Dev) (b : Bank) (mask : Nat) : Dev :=
  let d := forEach ((bankChans b).filter fun c => mask.testBit c.inBank) d fun d c =>
    setFlag (modCmp d c fun k => { k with onAt := none, dec := 0 }) (bCMP b) (cmpOff CMP_STS c) 20 false
  setFlag (modCmpBk d b fun k => { k with schk := k.schk ++ [(d.tb.mono, mask)] }) (bCMP b) CMP_SCRES 31 true

/-- A write of CMP_SCHK: refused when a masked channel has CH_CTRL.EN = 1 (R304). -/
def schkWrite (p : Port) (d : Dev) (b : Bank) (al mask : Nat) : Dev :=
  if (bankChans b).any fun c => mask.testBit c.inBank && flag d (chBlk (leadOf d c)) CH_CTRL 0 then accErr d p (bCMP b) (CMP_SCHK + 0x4000 * al) 1
  else if mask = 0 then d else scBegin d b mask

/-- The comparators whose outputs a phase checks, and the outputs it expects (R304). -/
def scExpect (phase : Nat) : Nat × Nat := match phase with | 1 => (0xF, 0xA) | 2 => (0xF, 0x5) | _ => (0xC, 0xC)

/-- A channel's self-check ends: its comparators are powered from off; a failure is a contained fault and leaves VALID 0 (R304, R343). -/
def scEnd (d : Dev) (c : Chan) (fail : Option ScFail) : Dev :=
  let b := bankOf c .cmp
  let d := cmpPowerOn d c
  match fail with
  | none => setFlag d b CMP_SCRES c.inBank false
  | some f =>
    let e := scExpect f.phase.val
    let bad := (List.range 4).find? fun n => e.1.testBit n && decide (f.outs.val.testBit n ≠ e.2.testBit n)
    match bad with
    | none => setFlag d b CMP_SCRES c.inBank false
    | some n =>
      let d := setFlag (modCmp d c fun k => { k with onAt := none }) b CMP_SCRES c.inBank true
      chanFault (raEvent d b (cmpOff CMP_STS c) 0x20) c 0x0106 (locFA c 4 n) (BitVec.ofNat 32 f.phase.val) (BitVec.ofNat 32 f.outs.val)
        false 0x13 0

/-- SELF_CHECK_DONE: 20 µs after the write the phases are complete (R304). -/
def doSelfCheckDone (b : Bank) (fails : List ScFail) (d : Dev) : Dev :=
  let due := (bk d b).cmp.schk.filter fun x => decide (x.1 + 20 * tapsPerUs ≤ d.tb.mono)
  if due.isEmpty then d else
  let d := modCmpBk d b fun k => { k with schk := k.schk.filter fun x => !decide (x.1 + 20 * tapsPerUs ≤ d.tb.mono) }
  let d := setFlag d (bCMP b) CMP_SCRES 31 (!(bk d b).cmp.schk.isEmpty)
  forEach ((bankChans b).filter fun c => due.any fun x => x.2.testBit c.inBank) d fun d c =>
    scEnd d c (fails.find? fun f => decide (f.chan.val = c.inBank) && decide (1 ≤ f.phase.val))

/-- CMPBIAS: the bank's channels are safe, and VALID stays 0 until a self-check passes (R295, R343). -/
def cmpBias (d : Dev) (b : Bank) : Dev :=
  let d := forEach (bankChans b) d fun d c =>
    setFlag (modCmp d c fun k => { k with onAt := none, dec := 0 }) (bCMP b) (cmpOff CMP_STS c) 20 false
  safeBank d b 0x13

/-! ### The interlock (R299 to R303) -/

/-- The interlock acts: every channel safe with TERM INTERLOCK, BKEN cleared and LATCH set in every bank, and the Folio record (R300). -/
def ilkAct (d : Dev) : Dev :=
  let d := safeAll d 0x17
  let d := forEach allBanks d fun d b =>
    protClear (raEvent (setFlag d (bCMP b) CMP_ILK 16 true) (bCMP b) CMP_ILK 0x1) (.bank b .loop) LOOP_CTL 0
  fieldEvent (bkSettleAll d) (bCMP 0) 0x8022 (locCode 1 0 31 0 0 0) 0 0

/-- FILK_N falls and is asserted after its deglitch (R299, R300): while the field side is not up its lands are safe already. -/
def doInterlock (d : Dev) : Dev :=
  if !d.pwr.filk then d else
  let d := { d with pwr := { d.pwr with filk := false } }
  if d.pwr.fup then ilkAct d else d

/-- FILK_N rises: the interlock input is no longer asserted (R301, R302). -/
def doFilkRelease (d : Dev) : Dev :=
  forEach allBanks { d with pwr := { d.pwr with filk := true } } fun d b => setFlag d (bCMP b) CMP_ILK 16 false

/-- The level of FSAFE_N: true while the output is asserted low (R302). -/
def fsafe (d : Dev) : Bool :=
  !d.pwr.filk || allBanks.any (fun b => flag d (bCMP b) CMP_ILK 0) || d.xc.autoSafe || d.pwr.fatal.isSome || !d.pwr.fup

/-- Whether a write of 1 to a bank's LOOP_CTL.BKEN is ignored with ACCERR: the interlock or thermal shutdown (R97, R301, R374). -/
def bkenBarred (d : Dev) (b : Bank) : Bool := !d.pwr.filk || flag d (bCMP b) CMP_ILK 0 || flag d bTHM THM_STS 18

end Sys2Proof.Machine
end

