-- ==== Sys2Proof/Machine/Faults.lean ====
section
/-! DEFINITION. Fault causes and their consequences (R333, R340, R343, R344), the fatal state (R340 to R342), scrubbing (R373), and the Folio's commands (R350 to R353). -/

namespace Sys2Proof.Machine

open Sys2Proof

/-- Whether HD's supervisor runs: the host side is up, not in the fatal state, and not restarting (R331, R340). -/
def supRuns (d : Dev) : Bool := hostUp d && d.pwr.fatal.isNone && !d.sl.restart

/-! ### The fatal state (R340) -/

/-- HD detects a fatal cause: a freeze ends first, the fatal latch takes the code, and the cause is recorded and latched (R340, R352). -/
def fatalEntry (d : Dev) (k : Blk) (code : Nat) (loc p0 p1 : Word) : Dev :=
  if d.pwr.fatal.isSome then d else
  let d := folThaw d
  raise (setFlag { d with pwr := { d.pwr with fatal := some code } } bFOL FOL_STS 17 true) k code loc p0 p1 (decide (code = 0x1002 ∨ code = 0x1004))

/-- FATAL_ENTRY for each fatal code of R343, with its parameters. -/
def doFatal (c : FatalCode) (p0 p1 : Word) (d : Dev) : Dev :=
  match c with
  | .lane0 toHost => fatalEntry d bXC 0x1002 (locLane toHost 0) (BitVec.ofNat 32 (b2n toHost)) 0
  | .xloss => fatalEntry d bXC 0x1004 (locHD 0 0) 0 0
  | .keyarea => fatalEntry d bSEC 0x1301 (locHD 7 12) 0 0
  | .hdinteg => fatalEntry d bDEV 0x1701 (locHD 7 9) p0 p1

/-- The field side has received an FLT frame of a fatal code: the device's safe state, with TERM HOSTLOSS (R340). -/
def fieldFatal (d : Dev) : Dev := bkSettleAll (safeAll d 0x16)

/-! ### Consequences of memory errors (R34, R344) -/

/-- A machine whose image was lost, which takes the machine fault ECC at its next issue slot: a wait ends at once, and when a step runs time
passes to the slot (R344). -/
def machLost (d : Dev) (c : Chan) : Dev :=
  match (ch d c).mach.st with
  | .run => modMach d c fun m => { m with ecc := true }
  | .step => machineFault (toSlot d c) c 11
  | .wait => modMach d c fun m => { m with ecc := true, wait := .none, st := .run }
  | _ => d

/-- Channels in the order of their next issue slots. -/
def bySlot (d : Dev) : List Chan → List Chan
  | [] => []
  | c :: r =>
    let l := bySlot d r
    let first (x : Chan) : Bool := decide (tsDiff (nextSlot d x) (nextSlot d c) < 0)
    l.filter first ++ c :: l.filter fun x => !first x

/-- SRAM2 makes an image slot invalid (R344). -/
def imageLost (d : Dev) (b : Bank) (slot : Nat) : Dev :=
  let k : Blk := .bank b .bk
  let d := wr (wr d k (BK_IMG_A + 8 * slot) 0) k (BK_IMG_B + 8 * slot) 0
  forEach (bySlot d ((bankChans b).filter fun c => decide ((ch d c).mach.slot.map (fun s => s.val) = some slot))) d machLost

/-- A double-bit error in a program or waveform store (R344): a word of a slot, of a segment, or of neither. -/
def sramLost (d : Dev) (b : Bank) (p0 p1 : Nat) : Dev :=
  let d := if p0 < 65536 then modSeq d b fun q => { q with eccWords := if q.eccWords.contains p0 then q.eccWords else q.eccWords ++ [p0] } else d
  if p1 < 16 ∧ slotValid d b p1 then imageLost d b p1
  else if p1 < 4096 then modSeq d b fun q => { q with badSegs := if q.badSegs.contains p1 then q.badSegs else q.badSegs ++ [p1] }
  else d

/-- The capture of the channel that owns a page of capture memory ends with CANCEL (R343). -/
def pageLost (d : Dev) (b : Bank) (page : Nat) : Dev :=
  forEach ((bankChans b).filter fun c => decide (capBase d c ≤ page) && decide (page < capBase d c + capPages d c)) d capCancel

/-- A Mould is lost: EN is cleared and the step of each channel that binds it ends with CHFAULT (R343). -/
def mouldLost (d : Dev) (b : Bank) (mm : Nat) : Dev :=
  let d := protClear d (.bank b .mld) (MLD_CFG + 4 * mm) 31
  let binds (c : Chan) : Bool := match (ch d c).mach.step with
    | some s => s.started && s.setup.binds.any fun x => match x with | some y => decide (y.mould.val = mm) | none => false
    | none => false
  forEach ((bankChans b).filter binds) d fun d c => safeGroup d c 0x13 0

/-- A test profile is lost: EN is cleared and a running step on it ends with CHFAULT (R343). -/
def profileLost (d : Dev) (b : Bank) (p : Nat) (pulse : Bool) : Dev :=
  let d := protClear d (.bank b .eis) (if pulse then PLS_CFG + 0x20 * p else EIS_CFG0 + 0x80 * p) 31
  let runs (c : Chan) : Bool := match (ch d c).mach.step with
    | some s => s.started && (match s.kind with
        | .eis q => !pulse && decide (q.val = p)
        | .pulse _ _ _ q => pulse && decide (q.val = p)
        | _ => false)
    | none => false
  forEach ((bankChans b).filter runs) d fun d c => safeGroup d c 0x13 0

/-- A spool record is dropped by a double-bit error: the one that the slot number, counted from the oldest, lies in (R343). -/
def spoolLost (d : Dev) (slot : Nat) : Dev :=
  let rec go : Nat → List SpoolItem → List SpoolItem
    | _, [] => []
    | n, i :: r =>
      let k := match i with | .record _ _ => 1 | .body _ k _ => k
      if n < k then r else i :: go (n - k) r
  { d with xc := { d.xc with spool := go slot d.xc.spool } }

/-- A lane goes out of use (R14): LANEDOWN, the contained fault, and the crossing stops when no lane of 1 to 3 is left in a direction. -/
def laneDown (d : Dev) (toHost : Bool) (lane : Fin 4) : Dev :=
  let d := setFlag d bXC XC_LANES (lane.val + 4 * b2n toHost) false
  let d := raise (raEvent d bXC XC_STS 0x40) bXC 0x1001 (locLane toHost lane.val) (BitVec.ofNat 32 lane.val) (BitVec.ofNat 32 (b2n toHost)) true
  let left := fld d bXC XC_LANES (3 + 4 * b2n toHost) (1 + 4 * b2n toHost)
  if left = 0 ∧ d.xc.up then xDown d else d

/-- A block's channel, when it is a channel window. -/
def blkChan : Blk → Option Chan
  | .chan c => some c
  | _ => none

/-- A block's bank, when it is a bank block. -/
def blkBank : Blk → Option Bank
  | .bank b _ => some b
  | _ => none

/-- The consequence of a cause of a channel window, after it has been raised (R343). -/
def causeChan (d : Dev) (c : Chan) (code : Nat) : Dev :=
  let d := if code = 0x010B then modMach d c fun m => { m with widx := 0, pidx := 0, fifo := [] } else d
  if faultClass code = 2 then safeGroup d c (if code = 0x0104 then 0x14 else 0x13) 0 else d

/-- The consequence of a cause of a bank block, after it has been raised (R343). -/
def causeBank (d : Dev) (b : Bank) (code p0 p1 : Nat) : Dev :=
  match code with
  | 0x0201 => bkSettle (protClear (safeBank d b 0x15) (.bank b .loop) LOOP_CTL 0) b
  | 0x0402 => sramLost d b p0 p1
  | 0x0502 => pageLost d b p0
  | 0x0602 => mouldLost d b (p0 % 16)
  | 0x0701 => profileLost d b (p0 % 16) (decide (p1 = 1))
  | 0x0801 => cmpBias d b
  | _ => d

/-- The block in which a code is reported (R343). -/
def causeBlk (k : Blk) (code : Nat) : Bool :=
  match k with
  | .chan _ => decide (0x0101 ≤ code ∧ code ≤ 0x010C)
  | .bank _ .loop => decide (code = 0x0201)
  | .bank _ .rsv => decide (code = 0x0301 ∨ code = 0x0302)
  | .bank _ .bk => decide (code = 0x0401 ∨ code = 0x0402)
  | .bank _ .cap => decide (code = 0x0501 ∨ code = 0x0502)
  | .bank _ .mld => decide (code = 0x0601 ∨ code = 0x0602)
  | .bank _ .eis => decide (code = 0x0701)
  | .bank _ .cmp => decide (code = 0x0801)
  | .bank _ .tdc => decide (code = 0x0901)
  | .host .xc => decide (0x1001 ≤ code ∧ code ≤ 0x1007)
  | .host .tb => decide (code = 0x1101)
  | .host .sl => decide (0x1201 ≤ code ∧ code ≤ 0x1203)
  | .host .sec => decide (code = 0x1301 ∨ code = 0x1302)
  | .host .fol => decide (code = 0x1401)
  | .host .cat => decide (code = 0x1501 ∨ code = 0x1502)
  | .host .thm => decide (code = 0x1601 ∨ code = 0x1602)
  | .host .dev => decide (code = 0x1701 ∨ code = 0x1702)
  | _ => false

/-- A Folio record is discarded by a double-bit error: the one at a place of the ring (R343, R346). -/
def folLost (d : Dev) (n : Nat) : Dev :=
  { d with folio := { d.folio with ring := d.folio.ring.filter fun r => decide ((r.accn.toNat - 1) % 14336 ≠ n) } }

/-- The channels whose pair an entry of the Catalogue belongs to carry NOCAL (R343). -/
def entryLost (d : Dev) (name : Word) : Dev :=
  let i := bits name 20 12
  if bits name 31 24 = 3 then forEach allChans d fun d c => if servingPair d c = i then modMeas d c fun m => { m with noCal := true } else d
  else if bits name 31 24 = 2 then forEach allChans d fun d c => if c.bank.val / 4 = i then modMeas d c fun m => { m with noCal := true } else d
  else if bits name 31 24 = 4 then
    if h : i < 192 then modMeas d ⟨i, h⟩ fun m => { m with noCal := true } else d
  else d

/-- A cause that the hardware detects: it is reported in its block, and the code's consequence follows (R336, R343). A code that is
not one of the block's is no such event. -/
def faultCause (d : Dev) (z : CauseIn) : Dev :=
  let code := z.code.toNat
  if !causeBlk z.blk code || !locOk z.loc then d else
  let p0 := z.p0.toNat
  let p1 := z.p1.toNat
  match code with
  | 0x0101 => match blkChan z.blk with | some c => if 1 ≤ p0 ∧ p0 ≤ 12 then machineFaultAt d c p0 (p1 % 65536) else d | none => d
  | 0x0301 => match blkBank z.blk with | some b => reserveFail d b (decide (p0 = 0)) | none => d
  | 0x1001 => laneDown d (decide (p1 = 1)) ⟨p0 % 4, Nat.mod_lt _ (by decide)⟩
  | 0x1201 => portLoss d (if p0 = 0 then .u else .d) p1
  | 0x1601 => if p0 < 12 then sensBroken d p0 else d
  | 0x1602 => if p0 < 10 then thermalShut d p0 else d
  | _ =>
    if faultClass code = 3 then fatalEntry d z.blk code z.loc z.p0 z.p1 else
    let k := match blkChan z.blk with | some c => chBlk (leadOf d c) | none => z.blk
    let d := raise d k code z.loc z.p0 z.p1 z.live
    let d := match blkChan z.blk, blkBank z.blk with
      | some c, _ => causeChan d c code
      | _, some b => causeBank d b code p0 p1
      | _, _ => d
    match code with
    | 0x1007 => if p1 = 1 then spoolLost d (p0 / 8) else d
    | 0x1101 => raEvent d bTB TB_STS 0x20
    | 0x1401 => if p1 = 1 then folLost d p0 else d
    | 0x1501 => raEvent d bCAT CAT_STS 0x1
    | 0x1502 => entryLost (raEvent d bCAT CAT_STS 0x2) z.p0
    | _ => d

/-- Whether a cause is an error of a memory that a kind of scrub passes over (R373). -/
def scrubCode (k : ScrubKind) (code : Nat) : Bool :=
  match k with
  | .fieldSram => decide (code ∈ [0x010A, 0x010B, 0x0401, 0x0402, 0x0501, 0x0502, 0x0601, 0x0602, 0x1007])
  | .hdSram => decide (code = 0x1701)
  | .mram => decide (code ∈ [0x1301, 0x1401, 0x1702, 0x1701])

/-- SCRUB_PASS: the errors it meets are reported, an MRAM pass also checks the copies of the Catalogue, and the next interval begins
(R357, R373). -/
def doScrub (k : ScrubKind) (errs : List CauseIn) (d : Dev) : Dev :=
  let up := match k with | .fieldSram => d.pwr.fup | _ => supRuns d
  if !up then d else
  let d := forEach (errs.filter fun z => scrubCode k z.code.toNat) d faultCause
  scrubNext (if k = .mram then catCheck d else d) k

/-! ### The Folio's commands (R350 to R353) -/

/-- The ring is emptied and a CLEARED record made, which becomes the oldest (R353). -/
def folClear (d : Dev) : Dev :=
  let n := d.folio.ring.length
  let d := { d with folio := { d.folio with ring := [] } }
  raEvent (folAppend d 0x8002 0 0 (locHD 7 10) (BitVec.ofNat 32 n) 0).1 bFOL FOL_STS 0x1

/-- Words 1 to 7 and 16 to 79 of every source are cleared (R353). -/
def histClear (d : Dev) : Dev :=
  { d with folio := { d.folio with area := d.folio.area.filter fun x =>
      let w := x.1 % 256
      !(decide (1 ≤ w) && decide (w ≤ 7)) && !(decide (16 ≤ w) && decide (w ≤ 79)) } }

/-- A write of FOL_CTL (R352, R353): the clears act first and are refused while frozen, then AUTOINC and FREEZE take effect. `open_`
tells whether the block's lock lets its WK fields be written. -/
def folCtlWrite (d : Dev) (p : Port) (al : Nat) (v : Word) (open_ : Bool) : Dev :=
  let frozen := d.folio.frzAt.isSome
  let clears := open_ && (bit v 8 || bit v 9)
  let d := if clears && frozen then accErr d p bFOL (FOL_CTL + 0x4000 * al) 1 else d
  let d := if clears && !frozen && bit v 8 then folClear d else d
  let d := if clears && !frozen && bit v 9 then histClear d else d
  let d := setFlag d bFOL FOL_CTL 1 (bit v 1)
  if bit v 0 then (if frozen then d else folFreeze d) else folThaw d

/-- FREEZE_TIMEOUT: 1 s after it began a freeze ends (R352). -/
def doFreezeTimeout (d : Dev) : Dev :=
  match d.folio.frzAt with
  | some t => if t + 1000000 * tapsPerUs ≤ d.tb.mono then raEvent (folThaw d) bFOL FOL_STS 0x8 else d
  | none => d

/-- FOL_SRCn.EN has been set: the source's area is cleared and takes its settings when they differ from those it holds (R350). -/
def folSrcOn (d : Dev) (n : Nat) : Dev :=
  let r := rd d bFOL (FOL_SRC + 4 * n)
  let w0 : Word := BitVec.ofNat 32 (bits r 15 0 + bits r 29 28 * 0x10000 + bits r 27 24 * 0x40000)
  let base := rd d bFOL (FOL_SBASE + 4 * n)
  if areaGet d n 0 = w0 ∧ areaGet d n 8 = base then d else
  let d := { d with folio := { d.folio with area := d.folio.area.filter fun x => decide (x.1 / 256 ≠ n) } }
  areaSet (areaSet d n 0 w0) n 8 base

/-- The source slots reload from their areas at power-up (R350): a slot whose area names a code is in use. -/
def folSrcLoad (d : Dev) : Dev :=
  forEach (List.range 64) d fun d n =>
    let w := areaGet d n 0
    if w = 0 then d else
    wr (wr d bFOL (FOL_SRC + 4 * n) (BitVec.ofNat 32 (0x80000000 + bits w 17 16 * 0x10000000 + bits w 21 18 * 0x1000000 + bits w 15 0)))
      bFOL (FOL_SBASE + 4 * n) (areaGet d n 8)

/-- Word `w` of the record window (R351). -/
def folWin (d : Dev) (w : Nat) : Word :=
  match d.folio.ring.find? fun r => decide (r.accn = rd d bFOL FOL_CUR) with
  | some r => (recWords r).getD w 0
  | none => 0

/-- Word `w` of the histogram window (R351). -/
def folHwin (d : Dev) (w : Nat) : Word := areaGet d (fld d bFOL FOL_HCUR 13 8) (8 * fld d bFOL FOL_HCUR 4 0 + w)

/-- A read of FOL_WIN7 advances FOL_CUR when AUTOINC is 1 (R351). -/
def folWinRead (d : Dev) : Dev := if flag d bFOL FOL_CTL 1 then wr d bFOL FOL_CUR (rd d bFOL FOL_CUR + 1) else d

end Sys2Proof.Machine
end

