-- ==== Sys2Proof/Machine/Cross.lean ====
section
/-! DEFINITION. The isolation crossing: which frames are taken (R11 to R15), heartbeats and autonomy (R17 to R21), the spool's way out (R22 to R24), time across the barrier (R158), and holdover (R33). -/

namespace Sys2Proof.Machine

open Sys2Proof

/-- The device with the crossing changed. -/
def modXc (d : Dev) (f : Crossing → Crossing) : Dev := { d with xc := f d.xc }

/-! ### Frames (R11 to R14) -/

/-- Whether a frame type is listed for a direction (R12). -/
def xTypeOk (ty : Nat) (toHost : Bool) : Bool :=
  if toHost then decide (ty ∈ [2, 3, 5, 6, 7, 9]) else decide (ty ∈ [1, 4, 5, 6, 7, 8, 9])

/-- Whether a frame is discarded (R13): its type or direction, or a lane of the other class. -/
def xDiscarded (h : XHead) : Bool :=
  !xTypeOk h.ty.val h.toHost || decide (h.dir.val ≠ 1 + b2n h.toHost)
    || decide ((h.ty.val = 5 ∨ h.ty.val = 6) ≠ (h.lane.val = 0))

/-- Whether a lane is in use (XC_LANES). -/
def xLaneUse (d : Dev) (h : XHead) : Bool := flag d bXC XC_LANES (h.lane.val + 4 * b2n h.toHost)

/-- The sequence number expected next in a direction and lane class (R11). -/
def xSeq (d : Dev) (h : XHead) : BitVec 16 :=
  match h.toHost, decide (h.lane.val = 0) with
  | false, true => d.xc.seqHF0
  | false, false => d.xc.seqHF1
  | true, true => d.xc.seqFH0
  | true, false => d.xc.seqFH1

/-- A sequence number lies behind another: its frame is a repeat. -/
def seqBehind (n m : BitVec 16) : Bool := decide ((n - m).toNat ≥ 0x8000)

/-- The number a sender counts at, once a frame with the number before `n` has arrived from it. -/
def seqSent (n tx : BitVec 16) : BitVec 16 := if seqBehind n tx then tx else n

/-- The sequence number after a frame that was taken in its turn. -/
def xSeqPut (d : Dev) (h : XHead) : Dev :=
  let n := h.seq + 1
  modXc d fun k =>
    match h.toHost, decide (h.lane.val = 0) with
    | false, true => { k with seqHF0 := n, txHF0 := seqSent n k.txHF0 }
    | false, false => { k with seqHF1 := n, txHF1 := seqSent n k.txHF1 }
    | true, true => { k with seqFH0 := n }
    | true, false => { k with seqFH1 := n, txFH1 := seqSent n k.txFH1 }

/-- Whether a type is retried (R12). -/
def xRetried (ty : Nat) : Bool := decide (ty ∈ [1, 2, 3, 4, 7, 8])

/-- The index of a lane of a direction in the resend counts. -/
def xLaneNo (h : XHead) : Nat := h.lane.val + 4 * b2n h.toHost

/-- A frame with a failed check (R14): counted, CRCERR, and for a retried type the request for a resend and the lane's failures. -/
def xBad (d : Dev) (h : XHead) : Dev :=
  let d := raEvent (bump d bXC XC_CRC_CNT) bXC XC_STS 0x20
  if xRetried h.ty.val then
    modXc d fun k => { k with fails := k.fails.set (xLaneNo h) (k.fails.getD (xLaneNo h) 0 + 1),
                              resend := if k.resend.contains h.seq then k.resend else k.resend ++ [h.seq] }
  else d

/-- A good frame on a lane ends the lane's run of failures, and a resend that was asked for has come. DESIGN CHOICE (log 98): the 15
failures of R14 are counted since the last good frame on the lane. -/
def xGoodNote (d : Dev) (h : XHead) : Dev :=
  modXc d fun k => { k with fails := k.fails.set (xLaneNo h) 0, resend := k.resend.filter (· != h.seq) }

/-- How an arriving frame stands (R11 to R14). -/
inductive XFate where
  /-- No frame arrives: the crossing does not work, the lane is out of use, or the frame is of another type. -/
  | none
  /-- The frame is discarded under R13. -/
  | discard
  /-- Its CRC-32C check fails. -/
  | bad
  /-- It has been taken before. -/
  | repeated
  /-- It waits for frames with earlier numbers. -/
  | early
  /-- It acts now. -/
  | taken
deriving DecidableEq, Repr

/-- The fate of an arriving frame of one type. A frame of a retried type on lanes 1 to 3 acts in the order of the sequence numbers, any
other when it arrives. DESIGN CHOICE (log 98): a frame that meets a condition of R13 and fails its check too is discarded and counted
as R13 says, in XC_DISC_CNT alone. -/
def xFate (d : Dev) (h : XHead) (ty : Nat) (toHost : Bool) : XFate :=
  if !d.xc.up || !xLaneUse d h then .none
  else if xDiscarded h then .discard
  else if h.ty.val ≠ ty ∨ h.toHost ≠ toHost then .none
  else if !h.crcOk then .bad
  else if !xRetried ty then .taken
  else if seqBehind h.seq (xSeq d h) then .repeated
  else if h.seq = xSeq d h then .taken
  else .early

/-- What a frame that does not act leaves behind (R13, R14). -/
def xRefused (d : Dev) (h : XHead) : XFate → Dev
  | .discard => raEvent (bump d bXC XC_DISC_CNT) bXC XC_STS 0x10
  | .bad => xBad d h
  | _ => d

/-- The reception of a frame of lane 0 (R11 to R14): discarded, failed or performed. While the crossing does not work no frame arrives. -/
def xTake (d : Dev) (h : XHead) (ty : Nat) (toHost : Bool) (act : Dev → Dev) : Dev :=
  match xFate d h ty toHost with
  | .taken => act (xSeqPut (xGoodNote d h) h)
  | f => xRefused d h f

/-- Whether a frame of one type acts when it arrives. -/
def xTaken (d : Dev) (h : XHead) (ty : Nat) (toHost : Bool) : Bool := decide (xFate d h ty toHost = .taken)

/-- LANE_DOWN after the 15th failure on a lane (R14). -/
def doLaneDown (toHost : Bool) (lane : Fin 4) (d : Dev) : Dev :=
  if lane.val ≠ 0 && flag d bXC XC_LANES (lane.val + 4 * b2n toHost) && decide (15 ≤ d.xc.fails.getD (lane.val + 4 * b2n toHost) 0) then
    laneDown d toHost lane
  else d

/-- 16 TIME frame periods of R158, 409.6 µs, in taps (R14). -/
def timeGap : Nat := 16 * 16384 * 160

/-- Lane 0 of a direction has failed (R14): no good TIME frame on it for 16 periods, which HD takes for the field-to-host lane only when
a further 1 ms has brought no report of the other lane, or the host-to-field lane lost lock and has not retrained 1 ms later. While the
lanes retrain, neither is judged. -/
def lane0Failed (d : Dev) (toHost : Bool) : Bool :=
  d.xc.up && d.pwr.fup &&
  if toHost then decide (d.xc.timeFH + timeGap + msTaps 1 ≤ d.tb.mono)
  else decide (d.xc.timeHF + timeGap ≤ d.tb.mono) ||
    match d.xc.lockLost with | some x => decide (x + msTaps 1 ≤ d.tb.mono) | none => false

/-- LANE0: lane 0 of a direction is lost, a fatal fault (R14). -/
def doLane0 (toHost : Bool) (d : Dev) : Dev :=
  if supRuns d && lane0Failed d toHost then doFatal (.lane0 toHost) 0 0 (setFlag d bXC XC_LANES (4 * b2n toHost) false) else d

/-! ### TRIG across the barrier (R15) -/

/-- A TRIG frame acts: at HD it goes out on Shelf Link, on the field side it is a trigger (R15). -/
def trigAct (d : Dev) (h : XHead) (m : TrigMsg) : Dev :=
  if h.toHost then
    let d := modXc d fun k => { k with trigSeqFH := some h.seq }
    let put (p : SlPort) : SlPort := if p.lock then { p with trigTx := some m } else p
    modPort (modPort d .u put) .d put
  else if d.pwr.fup then trigField (modXc d fun k => { k with trigSeq := some h.seq }) m else d

/-- The first good copy of a TRIG frame is acted on, and the second, sent back to back with the same number, is discarded (R15). -/
def doTrigFrame (h h2 : XHead) (m : TrigMsg) (d : Dev) : Dev :=
  let first := xTaken d h 6 h.toHost
  let d := xTake d h 6 h.toHost fun d => trigAct d h m
  if h2.seq = h.seq ∧ h2.toHost = h.toHost then xTake d h2 6 h.toHost fun d => if first then d else trigAct d h2 m else d

/-! ### TIME frames (R14, R158) -/

/-- HD sends a TIME frame every 2^14 periods, with its send time and the last measured d (R158). -/
def doTimeSend (d : Dev) : Dev :=
  if supRuns d && d.xc.up && onHostGrid d d.tb.now 16384 then
    modTb (modXc d fun k => { k with txHF0 := k.txHF0 + 1 }) fun k => { k with xx := { t1 := some k.now }, annFly := k.annNew }
  else d

/-- The field side corrects its TS by its offset from host time: a slew, and TSERR above 1,024 taps (R151, R158). -/
def fieldSlew (d : Dev) (o : Int) : Dev :=
  let d := modTb d fun k => { k with fslew := o }
  if 1024 < o.natAbs then raise (raEvent d bTB TB_STS 0x20) bTB 0x1101 (locHD 0 0) (satWord o) 0 false else d

/-- The field side receives a TIME frame at t2: it takes the line announcement that it carries, forms its offset with the d it carries
and slews (R143, R158). -/
def doTimeFrame (h : XHead) (d : Dev) : Dev :=
  xTake d h 5 false fun d =>
    let t2 := fieldNow d
    let d := modTb (modXc d fun k => { k with timeHF := d.tb.mono }) fun k => { k with xx := { k.xx with t2 := some t2 } }
    let d := match d.tb.annFly with | some a => fieldAnn d a | none => d
    match d.tb.xx.t1, d.tb.xd with
    | some t1, some dly => fieldSlew d (tsDiff t2 t1 - dly)
    | _, _ => d

/-- HD receives the echo, stamped t3 by the field side, at t4: the crossing latency goes into XC_LAT (R158). -/
def doTimeEcho (h : XHead) (t3 : TS) (d : Dev) : Dev :=
  xTake d h 5 true fun d =>
    let d := modXc d fun k => { k with timeFH := d.tb.mono }
    match d.tb.xx.t1, d.tb.xx.t2 with
    | some t1, some t2 =>
      if !tsValid t3 then d else
      let x := delayOffset d 1 t1 t2 t3 d.tb.now
      wr (modTb x.2 fun k => { k with xx := {}, xd := some x.1.1 }) bXC XC_LAT (BitVec.ofInt 32 x.1.1)
    | _, _ => d

/-! ### Heartbeats and autonomy (R17 to R21) -/

/-- HD sends an HB frame (R17). While the crossing does not work one waits (R12). -/
def doHbSend (d : Dev) : Dev :=
  if !supRuns d then d
  else if d.xc.up then modXc d fun k => { k with txHF1 := k.txHF1 + 1 }
  else modXc d fun k => { k with wait := if k.wait.contains .hb then k.wait else k.wait ++ [.hb] }

/-- XC_AUTO.WIN in taps. -/
def autoTaps (ms : Nat) : Nat := msTaps ms

/-- The autonomy timer runs and expires in the present cycle of CK_XF, half a period of 80 taps, or has expired (R19). -/
def autoOut (d : Dev) : Bool :=
  let t : Int := (tsTaps (fieldNow d) : Nat)
  d.xc.autoRun && decide ((t + (d.xc.autoFrom + autoTaps d.xc.autoWin : Nat) - d.tb.mono) / 80 ≤ t / 80)

/-- A heartbeat from HD on the field side: it restarts a timer that has not run out, with a new window length, and is answered (R17, R19,
R20). -/
def hbField (d : Dev) : Dev :=
  let d := modXc d fun k => { k with txFH1 := k.txFH1 + 1 }
  if autoOut d then d else
  modXc (setFlag d bXC XC_STS 8 false) fun k =>
    { k with autoRun := true, autoWin := fld d bXC XC_AUTO 15 0, autoFrom := d.tb.mono, hbLate := false }

/-- A heartbeat from the field side at HD: it notes it (R21). -/
def hbHD (d : Dev) : Dev := modXc d fun k => { k with hbHost := d.tb.mono }

/-- HEARTBEAT_GAP: AUTON after 500 µs without a heartbeat, HBLATE after more than four periods (XC_STS). -/
def doHbGap (d : Dev) : Dev :=
  if !d.xc.autoRun then d else
  let gap := d.tb.mono - d.xc.autoFrom
  let d := if 500 * tapsPerUs < gap then setFlag d bXC XC_STS 8 true else d
  if 1000 * tapsPerUs < gap ∧ !d.xc.hbLate then raEvent (modXc d fun k => { k with hbLate := true }) bXC XC_STS 0x2 else d

/-- A cause the field side reports in a host block: at once, or held while the crossing is down (R339). -/
def raiseFromField (d : Dev) (k : Blk) (code : Nat) (loc p0 p1 : Word) (live : Bool) : Dev :=
  if d.xc.up then raise d k code loc p0 p1 live
  else if d.xc.held.length < 64 then modXc d fun x => { x with held := x.held ++ [⟨⟨k, BitVec.ofNat 16 code, loc, p0, p1, live⟩, fieldNow d⟩] }
  else modXc d fun x => { x with heldGap := x.heldGap + 1, heldBad := x.heldBad + 1 }

/-- AUTONOMY_EXPIRY: every channel of all banks goes safe with HOSTLOSS, AUTOEXP is set and the fault reported (R18, R343). -/
def doAutoExpiry (d : Dev) : Dev :=
  if !d.xc.autoRun || decide (d.tb.mono < d.xc.autoFrom + autoTaps d.xc.autoWin) then d else
  let d := safeAll (modXc d fun k => { k with autoRun := false, autoSafe := true }) 0x16
  let d := raEvent (setFlag (bkSettleAll d) bXC XC_STS 8 false) bXC XC_STS 0x4
  raiseFromField d bXC 0x1005 (locCode 1 0 31 0 0 0) (BitVec.ofNat 32 d.xc.autoWin) 0 true

/-- FIELDLOSS: HD has received no field heartbeat for 1 ms from a field side that has been up; the lanes retrain (R21, R404, R406). A
field side that is down is watched again from its next start. -/
def doFieldLoss (d : Dev) : Dev :=
  if supRuns d && d.xc.hbWatch && d.xc.up && decide (d.xc.hbHost + msTaps 1 ≤ d.tb.mono) then
    let d := raise (raEvent d bXC XC_STS 0x80) bXC 0x1003 (locHD 0 0) 0 0 true
    modXc (xDown d) fun k => { k with hbWatch := d.pwr.fup }
  else d

/-- XLOSS: the lanes do not work 1 s after the autonomy timer would have expired, a fatal fault (R21). -/
def doXloss (d : Dev) : Dev :=
  if supRuns d && !d.xc.up && decide (d.xc.autoFrom + autoTaps d.xc.autoWin + msTaps 1000 ≤ d.tb.mono) then doFatal .xloss 0 0 d else d

/-- A held cause reaches HD: the mirror takes its block's registers, and its record and message are made now (R338, R339). -/
def heldArrive (d : Dev) (z : Held) : Dev :=
  let code := z.cause.code.toNat
  let cls := faultClass code
  let k := z.cause.blk
  if 0x8000 ≤ code then (folNote d code 0 0x18 z.cause.loc z.cause.p0 z.cause.p1).1
  else
    let d := if code = 0x1005 ∧ d.xc.autoSafe then { d with live := d.live ++ [z.cause] } else d
    let d := if blkField k then mirrorBlk d k else latchCause d k code cls z.cause.loc z.cause.p0 z.cause.p1 z.ts
    reportCause d k code cls z.cause.loc z.cause.p0 z.cause.p1 true

/-! ### Frames with data -/

/-- The class a record is sent in: 2 for a type set in SL_RCLS within the device's own rate over the running millisecond, else 3 (R321). -/
def recClass (d : Dev) (type : Nat) : Fin 4 × Dev :=
  let ms := d.tb.mono / msTaps 1
  let used := if d.sl.rsvMs = ms then d.sl.rsvBits else 0
  if flag d bSL SL_RCLS (type % 16) && decide (used + 512 ≤ fld d bSL SL_RSVBW 15 0 * 1000) then
    (2, modSl d fun s => { s with rsvMs := ms, rsvBits := used + 512 })
  else (3, d)

/-- A Colophon body arrives at HD: when the store, with the bodies to be signed, is full, the oldest Colophon in it is dropped (R396).
DEDUCED (log 107): the bodies before this one count, since each takes an entry when it is signed. -/
def bodyArrive (d : Dev) (c : Chan) (bytes : List Byte) : Dev :=
  let full := decide (208 ≤ d.sec.store.length + d.sec.bodies.length) && !d.sec.store.isEmpty
  let d := if full then raEvent (bump d bSEC SEC_CDROP) bSEC SEC_STS 0x10 else d
  { d with sec := { d.sec with store := if full then d.sec.store.drop 1 else d.sec.store, bodies := d.sec.bodies ++ [⟨c, bytes⟩] } }

/-- A REC frame at HD: the oldest item of the spool; a record goes out in a REC message, a Colophon body waits to be signed (R22, R24,
R313, R395). -/
def recArrive (d : Dev) : Dev :=
  if !hostUp d then d else
  match d.xc.spool with
  | [] => d
  | .record _ bytes :: r =>
    let x := recClass (modXc d fun k => { k with spool := r }) (bytes.getD 0 0).toNat
    sendFrame x.2 (egress x.2) 6 false x.1 3 2 0 0 (bytesWords bytes)
  | .body c _ bytes :: r => bodyArrive (modXc d fun k => { k with spool := r }) c bytes

/-- An STRM frame on the field side (R214, R215). -/
def strmArrive (payload : List Word) (d : Dev) : Dev := if d.pwr.fup then strmMsg d payload else d

/-- An FLT frame at HD: its mirror takes the fault registers of the field blocks (R338). -/
def fltArrive (d : Dev) : Dev := forEach (allBlks.filter blkField) d mirrorBlk

/-! ### Frames that wait (R12) -/

/-- The place of a frame in the order in which a sender takes those that wait: FLT, HB, RSP or CMD, BOOT, STRM, REC (R12). -/
def xPrio : XBody → Nat
  | .flt | .fatalFlt => 0
  | .hb => 1
  | .cmd .. | .rsp => 2
  | .boot .. => 3
  | .strm _ => 4
  | .recd => 5

/-- The order in which waiting frames leave: by priority, and within one type as they were queued (R12). -/
def xOrder (l : List XBody) : List XBody := (List.range 6).flatMap fun p => l.filter fun b => decide (xPrio b = p)

/-- HD sends a heartbeat or stream words to the field side. They act at once, or wait for frames with earlier numbers (R11); other
frames come as commands of their own. -/
def xSend (d : Dev) (b : XBody) : Dev :=
  let n := d.xc.txHF1
  let d := modXc d fun k => { k with txHF1 := n + 1 }
  if d.xc.seqHF1 ≠ n then
    modXc d fun k => { k with early := k.early ++ [(⟨if b = .hb then 9 else 4, 1, 0, n, 1, false, true⟩, some b)] }
  else
    let d := modXc d fun k => { k with seqHF1 := n + 1 }
    match b with
    | .hb => hbField d
    | .strm ws => strmArrive ws d
    | _ => d

/-- Stream words that HD passes on: a frame at once, or one that waits for the crossing (R12, R214). -/
def strmPass (d : Dev) (ws : List Word) : Dev :=
  if d.xc.up then xSend d (.strm ws) else modXc d fun k => { k with wait := k.wait ++ [.strm ws] }

/-- CROSSING_RESTORED: held causes arrive ahead of every record, a GAP record counts those that were lost, and HD's waiting frames
follow in their order (R12, R24, R339). -/
def doRestored (d : Dev) : Dev :=
  let lanes (o : Nat) : Bool := flag d bXC XC_LANES o && decide (fld d bXC XC_LANES (o + 3) (o + 1) ≠ 0)
  if d.xc.up || !lanes 0 || !lanes 4 then d else
  let held := d.xc.held
  let wait := d.xc.wait
  let gap := d.xc.heldGap
  let bad := d.xc.heldBad
  let d := modXc (unlive d bXC 0x1003) fun k => { k with up := true, lossAt := none, held := [], wait := [], heldGap := 0, heldBad := 0, hbHost := d.tb.mono }
  let d := forEach held d heldArrive
  let d := if gap = 0 then d else folGap d (BitVec.ofNat 32 gap) (BitVec.ofNat 32 bad)
  forEach (xOrder wait) d xSend

/-! ### Holdover (R33) -/

/-- CK_XF_LOSS: lane 0 loses its lock, the field PLL holds its frequency, and records carry the flag. DESIGN CHOICE (log 98): the drift
of the field clock in holdover, within 1 ppm, is taken as 0. -/
def doXfLoss (d : Dev) : Dev :=
  if flag d bXC XC_STS 9 then d else
  let d := modXc (setFlag d bXC XC_STS 9 true) fun k => { k with lockLost := some d.tb.mono }
  forEach allChans (modLed d fun l => { l with iv := { l.iv with fl := l.iv.fl ||| 0x10 } }) fun d c => noteFlags d c 0x40

/-- CK_XF_RETURN: field time is slewed back to host time, never stepped. -/
def doXfReturn (d : Dev) : Dev :=
  if flag d bXC XC_STS 9 then modTb (modXc (setFlag d bXC XC_STS 9 false) fun k => { k with lockLost := none }) fun k => { k with fslew := k.fofs } else d

end Sys2Proof.Machine
end

