-- ==== Sys2Proof/Machine/Startup.lean ====
section
/-! DEFINITION. Firmware images as the boot ROM and HD check them (R384 to R386), power-up, resets and what they clear (R399 to R408), and the start of each side (R403). -/

namespace Sys2Proof.Machine

open Sys2Proof

/-- The device with its power state changed. -/
def modPwr (d : Dev) (f : Power → Power) : Dev := { d with pwr := f d.pwr }

/-! ### Image verification (R384, R385) -/

/-- The size of an image slot in bytes: 2 MiB for a host slot, 1 MiB for a field slot. -/
def slotSize (s : Fin 4) : Nat := if s.val < 2 then 0x200000 else 0x100000

/-- ARB of the image in a slot. -/
def imageArb (d : Dev) (s : Fin 4) : Nat := bits (slotWord d s 2) 7 0

/-- LEN of the image in a slot. -/
def imageLen (d : Dev) (s : Fin 4) : Nat := (slotWord d s 3).toNat

/-- MAGIC, HVER and KIND are correct for the slot, and LEN fits it. -/
def imageShape (d : Dev) (s : Fin 4) : Bool :=
  decide (slotWord d s 0 = 0x4D49464B) && decide (bits (slotWord d s 1) 15 8 = 1)
    && decide (bits (slotWord d s 1) 7 0 = 1 + s.val / 2) && decide (4096 + imageLen d s ≤ slotSize s)

/-- The FAIL code of the first check that an image fails; none when it verifies (R385). -/
def imageFail (d : Dev) (s : Fin 4) : Option Nat :=
  let head := slotBytes d s 0 0x60
  if !imageShape d s then some 4
  else if !Config.signatureOk 0 head (slotBytes d s 0x60 64) then some 0
  else if !Config.signatureOk 1 head (slotBytes d s 0xA0 3309) then some 1
  else if shaBytes (slotBytes d s 0x1000 (imageLen d s)) ≠ imageDigest d s then some 2
  else if imageArb d s < fld d bSEC SEC_ARB 5 0 then some 3
  else none

/-- The register of an image slot. -/
def secSlot (s : Fin 4) : Nat := SEC_SLOT + 4 * s.val

/-- SEC_SLOTs takes a STATE and a FAIL code. -/
def slotState (d : Dev) (s : Fin 4) (state fail : Nat) : Dev := setFld d bSEC (secSlot s) 31 24 (state * 16 + fail)

/-- SEC_SLOTs takes ARB, MAJ and MIN from the image's header. -/
def slotLevels (d : Dev) (s : Fin 4) : Dev :=
  setFld (setFld d bSEC (secSlot s) 21 16 (imageArb d s)) bSEC (secSlot s) 15 0
    (bits (slotWord d s 1) 23 16 * 256 + bits (slotWord d s 1) 31 24)

/-- The slot's image runs, and no other of its kind does (SEC_SLOT.STATE). -/
def slotRuns (d : Dev) (s : Fin 4) : Dev :=
  let o : Fin 4 := s ^^^ 1
  let d := if fld d bSEC (secSlot o) 31 28 = 4 then slotState d o 2 0 else d
  slotLevels (slotState d s 4 0) s

/-- An image fails R385: IMGFAIL with the slot and the code, and its STATE is FAILED. -/
def slotFails (d : Dev) (s : Fin 4) (fail : Nat) : Dev :=
  raise (raEvent (slotState d s 3 fail) bSEC SEC_STS 0x2) bSEC 0x1302 (locHD 7 10) (BitVec.ofNat 32 s.val) (BitVec.ofNat 32 fail) false

/-- Chooses the image in a slot, or, when it fails, the other slot of its kind, if one verifies (R386). -/
def imagePick (d : Dev) (s : Fin 4) : Option (Fin 4) × Dev :=
  match imageFail d s with
  | none => (some s, d)
  | some f =>
    let d := slotFails d s f
    match imageFail d (s ^^^ 1) with
    | none => (some (s ^^^ 1), d)
    | some g => (none, slotFails d (s ^^^ 1) g)

/-- Starts the image that is chosen: the slot that runs, if one does (R386). -/
def imageStart (d : Dev) (s : Fin 4) : Option (Fin 4) × Dev :=
  let x := imagePick d s
  (x.1, match x.1 with | some r => slotRuns x.2 r | none => x.2)

/-! ### What a reset clears (R408) -/

/-- A channel after a field reset: what Patina holds of it in HD stays. -/
def chanReset (k : ChanSt) : ChanSt :=
  { tim := k.tim, cmp := { tgt := k.cmp.tgt, seen := k.cmp.seen, ofs := k.cmp.ofs } }

/-- The ledger after a field reset: the settings in effect stay, and everything it holds of the channels goes. -/
def ledReset (d : Dev) : LedgerSt :=
  { en := d.led.en, limI := d.led.limI, limX := d.led.limX, etaC := d.led.etaC, etaD := d.led.etaD,
    recN := max 1 (fld d bLED LED_RCFG 7 0) }

/-- The field side resets and returns to its boot state: bank blocks, channel windows, field SRAM and integrators (R400, R408). The
caller clears the bank memories. -/
def fieldReset (d : Dev) : Dev :=
  let xc : Crossing := { d.xc with
    seqHF0 := 0, seqHF1 := 0, seqFH0 := 0, seqFH1 := 0, txHF0 := 0, txHF1 := 0, txFH1 := 0, early := [], wait := [], lockLost := none, trigSeq := none, trigSeqFH := none, autoRun := false, hbLate := false,
    fails := [0, 0, 0, 0, 0, 0, 0, 0], resend := [], spool := [], held := [], heldGap := 0, heldBad := 0,
    bootDig := none, bootData := [], bootSlot := none, bootGood := false, bootBad := false }
  let d := { d with
    led := ledReset d, xc := xc, regs := d.regs.filter (fun x => hostKey x.1), unlocked := d.unlocked.filter (fun n => n < 10),
    seen := d.seen.filter hostKey, advanced := d.advanced.filter hostKey, wrote := d.wrote.filter (fun x => hostKey x.1), cleared := d.cleared.filter (fun x => hostKey x.1),
    live := d.live.filter (fun z => !blkField z.blk), mirror := [],
    chans := Vector.ofFn fun c => chanReset (d.chans.get c), banks := Vector.replicate 8 {},
    gtPulse := Vector.replicate 8 0, gtRemote := [], gtWin := List.replicate 8 {}, thm := { d.thm with banded := false },
    tb := { d.tb with xx := {}, xd := none, annFly := none, tapOld := [] }, pwr := { d.pwr with fup := false } }
  let d := setFlag (setFlag (setFlag d bXC XC_STS 8 false) bXC XC_STS 9 false) bDEV DEV_STS 17 false
  setFld (setFlag (setFlag d bTHM THM_STS 16 false) bLED LED_STS 16 false) bLED LED_PSTATE 15 0 0

/-- Registers of the SEC block that MRAM, the key area or the factory holds. -/
def secKept : List Nat :=
  [SEC_BOOT, SEC_ARB, SEC_SERIAL_LO, SEC_SERIAL_HI, SEC_KEYFP, SEC_KEYFP + 4, SEC_KEYFP + 8, SEC_KEYFP + 12,
   SEC_SLOT, SEC_SLOT + 4, SEC_SLOT + 8, SEC_SLOT + 12, SEC_CNEXT]

/-- Whether a register keeps its value over a reset of HD: those held in MRAM, the field side's, and over RESET_N the write-once fields,
the device address and SPLIT (R408). -/
def hostKept (cold : Bool) (key : Nat) : Bool :=
  !hostKey key || secKept.any (fun o => decide (key = regKey bSEC o))
    || (!cold && [SL_RING, SL_ADDR, SL_SPLIT].any fun o => decide (key = regKey bSL o))

/-- Registers of host blocks whose values the field side works with: line time, triggers and addresses, temperature bands, the ledger. -/
def fieldUses (key : Nat) : Bool :=
  decide (key / 0x4000 = blkIdx bTB ∨ key / 0x4000 = blkIdx bSL ∨ key / 0x4000 = blkIdx bTHM ∨ key / 0x4000 = blkIdx bLED)

/-- The registers of the host blocks return to their reset values but for those that are kept (R408). A field side that runs on (R17)
keeps its copies of what it uses, which stand in those registers until HD starts. -/
def hostClear (d : Dev) (cold runs : Bool) : Dev :=
  { d with regs := d.regs.filter fun x => hostKept cold x.1 || (runs && fieldUses x.1) }

/-- HD resets; `cold` when its rails fell (R401, R407, R408). -/
def hostReset (d : Dev) (cold : Bool) : Dev :=
  let d := hostClear d cold d.pwr.fup
  { d with
    unlocked := d.unlocked.filter (fun n => 10 ≤ n),
    seen := d.seen.filter (fun k => !hostKey k), advanced := d.advanced.filter (fun k => !hostKey k), wrote := d.wrote.filter (fun x => !hostKey x.1),
    cleared := d.cleared.filter (fun x => !hostKey x.1), live := d.live.filter (fun z => blkField z.blk),
    written := if cold then [] else d.written, ports := Vector.replicate 4 {}, msp := {}, sl := {},
    folio := { ring := d.folio.ring, nextAcc := d.folio.nextAcc, opsec0 := opsec d, pcyc := d.folio.pcyc, area := d.folio.area },
    cat := { a := d.cat.a, b := d.cat.b, pa := d.cat.pa, pb := d.cat.pb, refAt := d.cat.refAt }, thm := {},
    sec := { slots := d.sec.slots }, trigOut := [],
    pwr := { d.pwr with reset := true, coldStart := d.pwr.coldStart || cold } }

/-- Bank memory after a field reset: zeroed (R408). -/
def wiped (p : Bool) (m : Mem) : Mem := if p then [] else m

/-- RESET_N low for long enough: HD resets, and the field side with it when a frame can cross (R402, R407). -/
def doResetAssert (long : Bool) (m : Mem) (d : Dev) : Mem × Dev :=
  if !long || d.pwr.reset then (m, d) else
  let d := modPwr (hostReset d false) fun k => { k with fcause := 2, coldStart := false }
  if d.xc.up then ([], fieldReset d) else (m, d)

/-- A host rail falls below its reset threshold (R401): W1 fields, device address and SPLIT go with the VDDH power cycle. The crossing
stops. -/
def doHostRailLoss (d : Dev) : Dev :=
  let d := if d.pwr.reset then { hostClear d true d.pwr.fup with written := [] } else hostReset d true
  let d := modPwr d fun k => { k with coldStart := true, railAt := some d.tb.mono }
  modXc (xDown d) fun k => { k with hbWatch := false }

/-- The field side's power-on reset ends, and it enters its boot state (R400, R406). -/
def doFieldPor (m : Mem) (d : Dev) : Mem × Dev :=
  if d.pwr.frail then (m, d) else
  ([], modPwr (fieldReset d) fun k => { k with frail := true, fcause := if hostUp d && k.fcause = 5 then 5 else 1 })

/-- A field rail falls below its reset threshold: the field side resets at once (R400, R406). -/
def doFieldRailLoss (m : Mem) (d : Dev) : Mem × Dev :=
  if !d.pwr.frail then (m, d) else
  ([], modPwr (fieldReset d) fun k => { k with frail := false, fcause := if hostUp d then 5 else 1 })

/-! ### The host side starts (R403) -/

/-- The values that the factory and firmware give HD, loaded at its first start. -/
def factoryLoad (d : Dev) : Dev :=
  if d.pwr.started then d else
  let put (d : Dev) (o mask : Nat) : Dev := wr d bSEC o (Config.firmware (regKey bSEC o) &&& BitVec.ofNat 32 mask)
  let d := put (put d SEC_BOOT 0x33) SEC_ARB 0x3F
  let d := forEach [0, 1, 2, 3] d fun d s => put d (SEC_SLOT + 4 * s) 0xFF3FFFFF
  let d := wr (wr (wr d bSEC SEC_CNEXT 1) bSEC SEC_SERIAL_LO (Config.identity 0)) bSEC SEC_SERIAL_HI (Config.identity 1)
  let d := forEach [0, 1, 2, 3] d fun d w => wr d bSEC (SEC_KEYFP + 4 * w) (Config.identity (2 + w))
  modPwr d fun k => { k with started := true }

/-- The fatal state at a start: RESET_N keeps it, a VDDH power cycle of at least 10 ms ends it, and a shorter one may leave it (R342). -/
def fatalLoad (d : Dev) : Dev :=
  match d.pwr.fatal with
  | none => modPwr d fun k => { k with prevFatal := if k.coldStart then 0 else k.prevFatal }
  | some f =>
    let long := match d.pwr.railAt with | some x => decide (x + msTaps 10 ≤ d.tb.mono) | none => false
    let x := fresh d
    let stays := !d.pwr.coldStart || (!long && decide (Config.free x.1 % 2 = 1))
    let d := modPwr x.2 fun k => { k with fatal := if stays then some f else none, prevFatal := if k.coldStart then f else k.prevFatal }
    setFlag d bFOL FOL_STS 17 stays

/-- The role straps and BOOTSEL are latched (R307, R386, R402); no image runs yet. -/
def strapLoad (d : Dev) (role : Fin 4) (bootsel : Bool) : Dev :=
  let r := if role = 3 then 0 else role.val
  let d := wr d bSL SL_ROLE (BitVec.ofNat 32 (r + 4 * b2n (decide (r = 1 ∨ r = 2))))
  let d := setFlag d bSEC SEC_BOOT 16 bootsel
  let d := forEach [0, 1, 2, 3] d fun d s => if fld d bSEC (secSlot s) 31 28 = 4 then slotState d s 2 0 else d
  if role = 3 then raise (raEvent d bSL SL_STS 0x80) bSL 0x1203 (locHD 0 0) 3 0 true else d

/-- The Catalogue's header and references become visible (R356), and the delay lines of HD take their tap tables. The
echo latency is the device's own: no entry of R356 holds it (log 99). -/
def catLoad (d : Dev) : Dev :=
  let d := match entryData d 0x01 0 0 8 with
    | some ws =>
      let d := wr (wr (wr d bCAT CAT_COUNT (ws.getD 0 0)) bCAT CAT_LAST_LO (ws.getD 1 0)) bCAT CAT_LAST_HI (ws.getD 2 0)
      wr (wr d bCAT CAT_LAST_OPSEC (ws.getD 3 0)) bCAT CAT_DUE_OPSEC (ws.getD 4 0)
    | none => d
  let d := forEach [0, 1] d fun d n => match entryData d 0x02 0 n 8 with
    | some ws => wr (wr d bCAT (CAT_REFV + 8 * n) (ws.getD 2 0)) bCAT (CAT_REFI + 8 * n) (ws.getD 3 0)
    | none => d
  let d := wr d bTB TB_ECHO_LAT (Config.firmware (regKey bTB TB_ECHO_LAT))
  forEach (nodeLines 9) d fun d l => tapsPut d l (tapLoad d l)

/-- The supervisor firmware that runs shows its levels (DEV_VER, SL_VER). -/
def levelLoad (d : Dev) (s : Fin 4) : Dev :=
  let minor := bits (slotWord d s 1) 31 24
  let d := setFld (setFld d bDEV DEV_VER 15 8 minor) bSL SL_VER 15 8 minor
  setFld (setFlag d bSEC SEC_BOOT 0 (decide (s = 1))) bSL SL_VER 27 24 (Config.firmware (regKey bSL SL_VER)).toNat

/-- The host image of NEXTH runs, or the other one; with none, or with BOOTSEL high, HD is in recovery (R386). -/
def hostBoot (d : Dev) (hcause : Nat) (bootsel : Bool) : Dev :=
  let x := if bootsel then (none, d) else imageStart d (if flag d bSEC SEC_BOOT 4 then 1 else 0)
  let d := x.2
  match x.1 with
  | none => setFld (setFlag d bSEC SEC_STS 17 true) bDEV DEV_RCAUSE 7 0 4
  | some s =>
    let d := levelLoad (setFld d bDEV DEV_RCAUSE 7 0 hcause) s
    if d.pwr.fatal.isSome then d else raEvent (setFlag d bDEV DEV_STS 16 true) bDEV DEV_STS 0x2

/-- HOST_START: the sequence of R403 from the start instant P to the running supervisor. TS starts at 0 there. -/
def doHostStart (role : Fin 4) (bootsel : Bool) (m : Mem) (d : Dev) : Mem × Dev :=
  if !d.pwr.reset then (m, d) else
  let cold := d.pwr.coldStart
  let ran := d.pwr.fup
  let d := fieldReset { hostClear d cold false with tb := { mono := d.tb.mono, taps := d.tb.taps, refclk := true } }
  let d := modXc d fun k => { k with up := true, lossAt := none, autoSafe := false, hbWatch := false }
  let fol := { d.folio with opsec0 := d.folio.opsec0 - BitVec.ofNat 32 (d.tb.mono / (tapsPerUs * 1000000)),
                            pcyc := if cold then d.folio.pcyc + 1 else d.folio.pcyc }
  let d := fatalLoad (factoryLoad { d with folio := fol, led := {} })
  let d := strapLoad d role bootsel
  let d := folSrcLoad (patinaLoad (catLoad (catCheck d)))
  let hcause := if cold then 1 else 2
  let d := hostBoot (setFlag d bDEV DEV_STS 18 true) hcause bootsel
  let d := modPwr d fun k => { k with reset := false, railAt := none, coldStart := false, fcause := if ran then 2 else k.fcause }
  ([], folEvent d 0x8003 false (locHD 0 0) (rd d bDEV DEV_RCAUSE &&& 0xFF) (BitVec.ofNat 32 d.pwr.prevFatal))

/-! ### The field side starts (R403, R404) -/

/-- A BOOT frame on the field side: accepted in the boot state only (R16). Before HD sends the first one it has verified the image of
NEXTF, or the other one; the first frame begins with that image's digest, and the field side checks the data against it after the last. -/
def bootArrive (words : List Word) (last : Bool) (d : Dev) : Dev :=
  if !d.pwr.frail || d.pwr.fup then d else
  let first (d : Dev) : Dev :=
    let x := imagePick d (if flag d bSEC SEC_BOOT 5 then 3 else 2)
    match x.1 with
    | some s =>
      if wordBytes (words.take 16) = imageDigest x.2 s then
        modXc x.2 fun k => { k with bootSlot := some s, bootDig := some (words.take 16), bootData := words.drop 16 }
      else x.2
    | none => x.2
  let d := if d.xc.bootDig.isSome then modXc d fun k => { k with bootData := k.bootData ++ words } else first d
  if !last || d.xc.bootDig.isNone then d else
  let good := decide (some (shaBytes (wordBytes d.xc.bootData)) = d.xc.bootDig.map wordBytes)
  let d := modXc d fun k => { k with bootDig := none, bootData := [], bootGood := good, bootBad := !good }
  if good then d
  else raise d bXC 0x1006 (locCode 1 0 31 7 8 0) (BitVec.ofNat 32 (d.xc.bootSlot.getD (fieldSlot d)).val) 0 false

/-- The converter sets, tap tables, comparator trims, guards and shunt values go into the field side (R403, R104). -/
def fieldLoad (d : Dev) : Dev :=
  let d := forEach (List.range 9) d fun d n => forEach (nodeLines n) d fun d l => tapsPut d l (tapLoad d l)
  let d := forEach (List.range 10) d fun d n => bandFollow d n false
  forEach allChans d fun d c =>
    let w := (ch d c).cmp.tgt
    let g : Int := (bits w 29 24 : Nat)
    let d := modCmp d c fun k =>
      { k with ov := trimOf w 0 - g, uv := trimOf w 8 + g, oc := trimOf w 16 - g, guard := g, at_ := d.tb.mono }
    let d := wr d (bankOf c .cmp) (cmpOff CMP_TRIM c) w
    let d := wr d (chBlk c) CH_SHUNT (shuntNow d c)
    cmpPowerOn (safeLands d c) c

/-- FIELD_UP: the field side comes up with the image that it has received and found good (R16, R403, R404). Field time is stepped to host
time, with its wrap count and its line time (R141, R158), the autonomy timer starts, the comparators have just been powered, and bodies
that were not signed are lost (R408). -/
def doFieldUp (d : Dev) : Dev :=
  if !supRuns d || !d.pwr.frail || d.pwr.fup || !d.xc.bootGood || !d.xc.up then d else
  let d := match d.xc.bootSlot with
    | some s => setFlag (slotRuns d s) bSEC SEC_BOOT 1 (decide (s = 3))
    | none => d
  let d := modTb d fun k => { k with fofs := 0, fslew := 0, fwrap := wrapW d, fl := k.hl }
  let d := modPwr { d with sec := { d.sec with bodies := [] } } fun k => { k with fup := true, fieldUpAt := d.tb.mono }
  let d := warmAll (fieldLoad d)
  let d := modXc d fun k =>
    { k with autoRun := true, autoWin := fld d bXC XC_AUTO 15 0, autoFrom := d.tb.mono, hbHost := d.tb.mono, hbWatch := true,
             timeHF := d.tb.mono, timeFH := d.tb.mono }
  let d := setFld (setFlag d bDEV DEV_STS 17 true) bDEV DEV_RCAUSE 15 8 d.pwr.fcause
  let d := bkSettleAll (raEvent d bDEV DEV_STS 0x8)
  if d.pwr.filk then d else ilkAct d

/-- The field side is rebooted by HD, from SEC_BOOT.NEXTF: by DEV_CTL.FREBOOT (cause 3) or a field slot switch (cause 4). -/
def fieldReboot (d : Dev) (cause : Nat) : Dev :=
  modPwr (modXc (fieldReset d) fun k => { k with hbWatch := false }) fun k => { k with fcause := cause }

/-- Whether LOOP_CTL.BKEN is 1 in any bank (R389, DEV_CTL). -/
def anyBken (d : Dev) : Bool := allBanks.any fun b => flag d (.bank b .loop) LOOP_CTL 0

end Sys2Proof.Machine
end

