-- ==== Sys2Proof/Machine/Security.lean ====
section
/-! DEFINITION. Requests on Shelf Link and their responses (R314, R315), firmware slots (R387 to R389), the anti-rollback counter (R388), attestation (R390, R391), and the signing and delivery of Colophons (R395, R396). -/

namespace Sys2Proof.Machine

open Sys2Proof

/-- The device with the security block changed. -/
def modSec (d : Dev) (f : SecSt → SecSt) : Dev := { d with sec := f d.sec }

/-! ### Responses (R312, R315, R330) -/

/-- The response to a request, in its major and with its TAG: to the controller, or back to the device that asked. -/
def slReply (d : Dev) (q : Side) (f : SlFrame) (cls : Fin 4) (payload : List Word) : Dev :=
  if f.ctrl then sendFrame d (egress d) f.type true cls f.vmaj 2 0 f.tag payload
  else sendFrame d q f.type true cls f.vmaj 0 f.src f.tag payload

/-- Whether HD is in recovery (R386). -/
def inRecovery (d : Dev) : Bool := flag d bSEC SEC_STS 17

/-- The status that turns a request away before it is performed, if any (R315, R330, R331, R341, R386): `keep` for a request that the
fault-reporting core of the fatal state performs, `rec` for one that recovery performs. -/
def slTurned (d : Dev) (f : SlFrame) (keep rec : Bool) : Option Nat :=
  if f.vmaj.val ≠ 2 ∧ f.vmaj.val ≠ 3 then some 4
  else if d.pwr.fatal.isSome then (if keep then none else some 7)
  else if d.sl.restart then some 5
  else if inRecovery d then (if rec then none else some 5)
  else none

/-- A request that has arrived is performed, or answered with the status that turns it away. -/
def slRequest (d : Dev) (q : Side) (f : SlFrame) (type : Nat) (keep rec : Bool) (cls : Fin 4) (act : Dev → Dev) : Dev :=
  slTake d q f (decide (f.type.val = type) && !f.resp) fun d =>
    match slTurned d f keep rec with
    | some s => slReply d q f cls [BitVec.ofNat 32 s]
    | none => act d

/-- Whether a frame that arrives is an event of its own: TIME messages, DISC and TOPO messages the device acts on, and the requests that
it performs. -/
def ownEvent (d : Dev) (q : Side) (f : SlFrame) : Bool :=
  let kind := bits (f.payload.getD 0 0) 31 28
  match f.type.val with
  | 9 => decide (kind ≤ 3)
  | 0xB => (decide (kind = 0 ∧ q = .d) && isHead d) || (decide (kind = 1) && slMine d f)
  | 0xC => decide (kind = 1 ∨ kind = 2)
  | t => decide (t ∈ [1, 2, 3, 4, 5, 0xD, 0xE]) && !f.resp && slMine d f

/-- What the device does with a frame for it that is no event of its own: an STRM message goes on to the field side (R214); a message it
performs as no request is answered TYPE, with nothing performed (R315). -/
def frameOther (q : Side) (f : SlFrame) (d : Dev) : Dev :=
  if f.resp then d
  else if f.type.val = 7 then
    match slTurned d f false false with
    | some s => slReply d q f 3 [BitVec.ofNat 32 s]
    | none => strmPass d f.payload
  else if f.type.val ∈ [6, 0xA, 0xF] ∧ f.dmode.val ≠ 1 then slReply d q f 1 [BitVec.ofNat 32 ((slTurned d f false false).getD 6)]
  else d

/-- SL_FRAME_FORWARD: every other frame that arrives is forwarded as R312 says, and one that is for the device is taken. -/
def doFrameForward (q : Side) (f : SlFrame) (d : Dev) : Dev :=
  if ownEvent d q f && !slBadFrame f && f.crcOk then d else slTake d q f true (frameOther q f)

/-! ### Firmware slots (R387, R389) -/

/-- The slot an IMG request names. -/
def imgSlot (f : SlFrame) : Fin 4 := ⟨bits (f.payload.getD 0 0) 1 0 % 4, Nat.mod_lt _ (by decide)⟩

/-- OP of an IMG request. -/
def imgOp (f : SlFrame) : Nat := bits (f.payload.getD 0 0) 31 28

/-- Whether a slot holds the image that runs (SEC_SLOT.STATE). -/
def slotInUse (d : Dev) (s : Fin 4) : Bool := decide (fld d bSEC (secSlot s) 31 28 = 4)

/-- The response to an IMG request: status OK and a result. -/
def imgReply (d : Dev) (q : Side) (f : SlFrame) (res : Nat) : Dev := slReply d q f 3 [0, BitVec.ofNat 32 res]

/-- The device with a firmware slot's words changed. -/
def modImg (d : Dev) (s : Fin 4) (f : ImgSlot → ImgSlot) : Dev :=
  modSec d fun k => { k with slots := k.slots.set s.val (f (k.slots.get s)) s.isLt }

/-- An IMG request of one OP on a slot that does not hold the running image; INUSE otherwise. -/
def imgRequest (q : Side) (f : SlFrame) (op : Nat) (d : Dev) (act : Dev → Fin 4 → Dev) : Dev :=
  if imgOp f ≠ op then d else
  slRequest d q f 0xD false true 3 fun d =>
    if slotInUse d (imgSlot f) then imgReply d q f 1 else act d (imgSlot f)

/-- ERASE: every byte of the slot is 0, and its STATE EMPTY (R387). -/
def doErase (q : Side) (f : SlFrame) (d : Dev) : Dev :=
  imgRequest q f 0 d fun d s =>
    if f.payload.length = 0 then slReply d q f 3 [3] else
    imgReply (slotLevels (slotState (modImg d s fun _ => { erased := true }) s 0 0) s) q f 0

/-- The words of a slot with data written from a word number on. -/
def imgPut (s : Fin 4) (x : ImgSlot) (k : Nat) : List Word → ImgSlot
  | [] => x
  | w :: r => imgPut s { x with words := smSet (if x.erased then wordZero else Config.factoryImage s.val) x.words k w } (k + 1) r

/-- CHUNK: 1 to 1,024 words are written, and STATE becomes WRITTEN (R387). -/
def doChunk (q : Side) (f : SlFrame) (d : Dev) : Dev :=
  imgRequest q f 1 d fun d s =>
    let off := (f.payload.getD 1 0).toNat
    let ws := f.payload.drop 2
    if ws.length = 0 ∨ 1024 < ws.length then slReply d q f 3 [3]
    else if off % 4 ≠ 0 ∨ slotSize s < off + 4 * ws.length then imgReply d q f 2
    else imgReply (slotLevels (slotState (modImg d s fun x => imgPut s x (off / 4) ws) s 1 0) s) q f 0

/-- VERIFY: the checks of R385 begin; VERIFY_DONE ends them (R387). -/
def doVerify (q : Side) (f : SlFrame) (d : Dev) : Dev :=
  imgRequest q f 2 d fun d _ =>
    if f.payload.length = 0 then slReply d q f 3 [3] else modSec d fun k => { k with verify := k.verify ++ [(q, f)] }

/-- VERIFY_DONE: the oldest VERIFY of a slot ends, VERIFIED or FAILED (R385, R387). -/
def doVerifyDone (s : Fin 4) (d : Dev) : Dev :=
  match d.sec.verify.find? fun x => imgSlot x.2 == s with
  | none => d
  | some x =>
    let d := modSec d fun k => { k with verify := k.verify.erase x }
    match imageFail d s with
    | none => imgReply (raEvent (slotLevels (slotState d s 2 0) s) bSEC SEC_STS 0x1) x.1 x.2 0
    | some n => imgReply (slotFails d s n) x.1 x.2 (4 + n * 256)

/-- The result of a SWITCH to a slot, before it is performed (R387, R389). -/
def switchResult (d : Dev) (s : Fin 4) : Nat :=
  if slotInUse d s then 1
  else if fld d bSEC (secSlot s) 31 28 ≠ 2 then 3
  else if 2 ≤ s.val ∧ anyBken d then 5
  else 0

/-- A refused switch (SEC_STS.SWREF). -/
def switchRefused (d : Dev) : Dev := raEvent d bSEC SEC_STS 0x4

/-- A host slot switch: Patina stores its state, NEXTH names the slot, and the supervisor stops (R332, R379, R389). -/
def hostSwitch (d : Dev) (s : Fin 4) : Dev :=
  let d := setFlag (setFlag (patinaStore d) bSEC SEC_BOOT 4 (decide (s = 1))) bDEV DEV_STS 16 false
  modSl d fun k => { k with restart := true }

/-- A switch that is performed (R389). -/
def switchTo (s : Fin 4) (m : Mem) (d : Dev) : Mem × Dev :=
  if s.val < 2 then (m, hostSwitch d s)
  else ([], fieldReboot (setFlag d bSEC SEC_BOOT 5 (decide (s = 3))) 4)

/-- A write of SEC_SWCMD with GO = 1: the same switch, with its result in SEC_SWRES (R389). -/
def switchCmd (s : Fin 4) (m : Mem) (d : Dev) : Mem × Dev :=
  let r := switchResult d s
  let d := wr d bSEC SEC_SWRES (BitVec.ofNat 32 r)
  if r = 0 then switchTo s m d else (m, switchRefused d)

/-- Whether an IMG request of OP SWITCH that has arrived is performed: the switch itself follows its response. -/
def switchArrived (q : Side) (f : SlFrame) (d : Dev) : Bool × Dev :=
  let d0 := imgRequest q f 3 d fun d s =>
    if f.payload.length = 0 then slReply d q f 3 [3] else
    let r := switchResult d s
    imgReply (if r = 0 then d else switchRefused d) q f r
  let a := slAccept d q f
  let ok := decide (imgOp f = 3 ∧ f.type.val = 0xD) && !f.resp && decide (f.payload.length ≠ 0) && a.1 && slMine a.2 f
    && (slTurned d f false true).isNone && decide (switchResult d (imgSlot f) = 0)
  (ok, d0)

/-- SWITCH by an IMG message (R387, R389). -/
def doSwitch (q : Side) (f : SlFrame) (m : Mem) (d : Dev) : Mem × Dev :=
  let x := switchArrived q f d
  if x.1 then switchTo (imgSlot f) m x.2 else (m, x.2)

/-- The supervisor runs again after a host slot switch: bodies that were not signed wait in the spool again, the Colophon store is
lost, and a TOPO REJOIN tells of the new version (R332, R396). -/
def hostBack (d : Dev) (s : Fin 4) : Dev :=
  let d := levelLoad (slotRuns d s) s
  let spool := d.sec.bodies.map (fun b => SpoolItem.body b.chan ((b.bytes.length + 63) / 64) b.bytes) ++ d.xc.spool
  let d := modXc d fun k => { k with spool := spool, hbHost := d.tb.mono }
  let d := modSl (modSec d fun k => { k with bodies := [], store := [], attests := [], verify := [] }) fun k => { k with restart := false }
  let d := raEvent (setFlag (setFld d bDEV DEV_RCAUSE 7 0 3) bDEV DEV_STS 16 true) bDEV DEV_STS 0x2
  sendTopo d (egress d) 3 0 0 (annWords d ++ [BitVec.ofNat 32 (fld d bSL SL_ADDR 9 0)])

/-- HOST_RESTART_DONE: the slot of NEXTH runs when it verifies, else the one that ran before (R332). -/
def doHostRestart (verified : Bool) (d : Dev) : Dev :=
  if !d.sl.restart then d else
  let s : Fin 4 := if flag d bSEC SEC_BOOT 4 then 1 else 0
  match imageFail d s, verified with
  | none, true => hostBack d s
  | some n, false => hostBack (slotFails d s n) (hostSlot d)
  | _, _ => d

/-- A stored 1 in SEC_ARBCMT.COMMIT raises the counter to the smaller ARB of the running images (R388). -/
def arbCommit (d : Dev) : Dev :=
  let n := min (imageArb d (hostSlot d)) (imageArb d (fieldSlot d))
  if fld d bSEC SEC_ARB 5 0 < n then raEvent (setFld d bSEC SEC_ARB 5 0 (min 63 n)) bSEC SEC_STS 0x8 else d

/-! ### Attestation (R390, R391) -/

/-- The configuration words of a block in ascending offset order, every other field taken as 0 (R391). -/
def cfgWords (d : Dev) (k : Blk) : List Word :=
  (List.range 0x1000).filterMap fun i =>
    match regAt k (4 * i) with
    | some (r, _) => if r.cfg = 0 then none else some (rd d k (4 * i) &&& BitVec.ofNat 32 r.cfg)
    | none => none

/-- All blocks in ascending address order (R438, R439). -/
def blksByAddr : List Blk :=
  allBlks.take 10 ++ (allBanks.map fun b => ((List.range 8).map fun n => blkOfIdx (10 + 8 * b.val + n)) ++ (bankChans b).map Blk.chan).flatten

/-- CFGDIG (R391). -/
def cfgDigest (d : Dev) : List Byte := shaBytes (wordBytes ((blksByAddr.map fun k => cfgWords d k).flatten))

/-- RECDIG (R391). -/
def recDigest (m : Mem) (d : Dev) : List Byte :=
  shaBytes ((allBanks.map fun b => ((List.range 16).map fun s =>
    if slotValid d b s then 1 :: recipeDigest m d b s else [0]).flatten).flatten)

/-- The committed recipe images on the device. -/
def recipeCount (d : Dev) : Nat := (allBanks.map fun b => ((List.range 16).filter fun s => slotValid d b s).length).foldl (· + ·) 0

/-- Exactly `n` bytes of a string, padded with zeros. -/
def fit (n : Nat) (l : List Byte) : List Byte := (l ++ List.replicate n 0).take n

/-- A message followed by the device's two signatures over it and the pad (R381, R390, R393). -/
def signed (d : Dev) (bs : List Byte) : List Byte × Dev :=
  let x := fresh d
  (bs ++ fit 64 (Config.sign 0 bs x.1) ++ fit 3309 (Config.sign 1 bs x.1) ++ [0, 0, 0], x.2)

/-- The device address with its valid bit in [15], as R390 and R393 hold it. -/
def devAddr (d : Dev) : Nat := fld d bSL SL_ADDR 9 0 + 0x8000 * b2n (flag d bSL SL_ADDR 10)

/-- The bytes of an attestation report that its signatures cover (R390). -/
def attestBytes (m : Mem) (d : Dev) (nonce : List Word) : List Byte :=
  leBytes 4 0x5441464B ++ leBytes 1 1 ++ leBytes 1 (fld d bSEC SEC_ARB 5 0) ++ leBytes 1 (recipeCount d)
    ++ leBytes 1 (fld d bSEC SEC_BOOT 1 0) ++ wordBytes [rd d bSEC SEC_SERIAL_LO, rd d bSEC SEC_SERIAL_HI]
    ++ wordBytes ((List.range 4).map fun w => rd d bSEC (SEC_KEYFP + 4 * w)) ++ fit 32 (wordBytes nonce) ++ leBytes 8 d.tb.now.toNat
    ++ wordBytes [rd d bSL SL_VER] ++ leBytes 2 (devAddr d)
    ++ leBytes 2 (b2n (flag d bTB TB_STS 18) + 2 * b2n (flag d bXC XC_STS 2) + 4 * b2n (flag d bDEV DEV_STS 17))
    ++ imageDigest d (hostSlot d) ++ imageDigest d (fieldSlot d) ++ cfgDigest d ++ leBytes 64 (catDigest d) ++ recDigest m d

/-- ATTEST: a request with its nonce waits for the crypto engine (R390). -/
def doAttest (q : Side) (f : SlFrame) (d : Dev) : Dev :=
  slRequest d q f 0xE false false 1 fun d =>
    if f.payload.length < 9 ∨ f.payload.getD 0 0 ≠ 0 then slReply d q f 1 [3]
    else modSec d fun k => { k with attests := k.attests ++ [(q, f)] }

/-- ATTEST_REPORT: the report of the oldest request leaves (R390). -/
def doAttestReport (m : Mem) (d : Dev) : Dev :=
  match d.sec.attests with
  | [] => d
  | x :: r =>
    if !supRuns d then d else
    let y := signed (modSec d fun k => { k with attests := r }) (attestBytes m d (x.2.payload.drop 1))
    slReply y.2 x.1 x.2 1 (0 :: bytesWords y.1)

/-! ### Colophons (R395, R396) -/

/-- A COLO message: class 2, DMODE 2 (R395). -/
def sendColo (d : Dev) (ws : List Word) : Dev := sendToController d 0xF 2 ws

/-- COLOPHON_SIGNED: the oldest body takes its SEQ and its signatures, enters the store and is sent (R395, R396). -/
def doColoSigned (d : Dev) : Dev :=
  match d.sec.bodies with
  | [] => d
  | b :: r =>
    if !supRuns d then d else
    let seq := rd d bSEC SEC_CNEXT
    let bs := b.bytes.take 16 ++ leBytes 4 seq.toNat ++ b.bytes.drop 20
    let x := signed (wr (modSec d fun k => { k with bodies := r }) bSEC SEC_CNEXT (seq + 1)) bs
    let ws := bytesWords x.1
    let d := x.2
    let d := modSec d fun k => { k with store := k.store ++ [⟨seq, ws, d.tb.mono⟩] }
    sendColo d ws

/-- COLOPHON_RESEND: 1 s after its previous sending a Colophon that has not been acknowledged is sent again (R396). -/
def doColoResend (seq : Word) (d : Dev) : Dev :=
  match d.sec.store.find? fun x => decide (x.seq = seq) && decide (x.sentAt + msTaps 1000 ≤ d.tb.mono) with
  | none => d
  | some x =>
    if !supRuns d then d else
    sendColo (modSec d fun k => { k with store := k.store.map fun y => if y.seq = seq then { y with sentAt := d.tb.mono } else y }) x.words

/-- A write of SEC_CACK releases the Colophon of a SEQ; an unknown one has no effect (R396). -/
def coloAck (d : Dev) (seq : Word) : Dev := modSec d fun k => { k with store := k.store.filter fun x => decide (x.seq ≠ seq) }

/-- The length in bytes of a certificate (R383). -/
def certLen (n : Nat) : Nat := if n = 0 then 3429 else 5349

/-- Word `w` of the certificate window (R383): the bytes of the selected certificate, 0 past its end. -/
def certWord (d : Dev) (w : Nat) : Word :=
  let n := fld d bSEC SEC_CSEL 0 0
  let k := certLen n - 4 * w
  let x := (Config.certificate n w).toNat
  BitVec.ofNat 32 (if 4 ≤ k then x else x % 256 ^ k)

end Sys2Proof.Machine
end

