-- ==== Sys2Proof/Machine/Access.lean ====
section
/-! DEFINITION. Register and memory access: the address map (R36, R438 to R440), access rules (R6, R37 to R54), what each register reads, and what a write of each register does. -/

namespace Sys2Proof.Machine

open Sys2Proof

/-! ### Addresses (R36, R438, R439, R440) -/

/-- Where an address lies: a register block with the normal offset and the alias number (R36), a region of a bank memory window with
the byte offset in it (R440: 0 program store, 1 waveform store, 2 capture memory, 3 Mould store), or nowhere (R42). -/
inductive Place where
  | reg (k : Blk) (off : Nat) (al : Nat)
  | mem (b : Bank) (r : Nat) (o : Nat)
  | none
deriving DecidableEq, Repr

/-- A bank number. -/
def bankNo (n : Nat) : Bank := ⟨n % 8, Nat.mod_lt _ (by decide)⟩

/-- A place in a register block, from its number and the offset with its alias bits (R36). -/
def regPlace (n o : Nat) : Place := .reg (blkOfIdx n) (o % 0x4000) (o / 0x4000 % 4)

/-- The size of a region of a bank memory window (R440). -/
def regionSize (r : Nat) : Nat := match r with | 0 => 0x80000 | 1 => 0x100000 | 2 => 0x400000 | _ => 0x4000

/-- Where an address lies. -/
def locate (a : Word) : Place :=
  let x := a.toNat
  if x < 0xA0000 then regPlace (x / 0x10000) (x % 0x10000)
  else if 0x01000000 ≤ x ∧ x < 0x03000000 then
    let b := (x - 0x01000000) / 0x400000
    let n := (x - 0x01000000) % 0x400000 / 0x10000
    if n < 8 then regPlace (10 + 8 * b + n) (x % 0x10000)
    else if 16 ≤ n ∧ n < 40 then regPlace (74 + 24 * b + (n - 16)) (x % 0x10000)
    else .none
  else if 0x40000000 ≤ x ∧ x < 0x60000000 then
    let b := (x - 0x40000000) / 0x04000000
    let o := (x - 0x40000000) % 0x04000000
    if o % 0x1000000 < regionSize (o / 0x1000000) then .mem (bankNo b) (o / 0x1000000) (o % 0x1000000) else .none
  else .none

/-- The address of a register at its normal alias. -/
def regAddr (k : Blk) (off : Nat) : Word := BitVec.ofNat 32 (blkBase k + off)

/-- Where a block's register is stored: BK registers 0x0300 to 0x031C have a copy per port (R223). -/
def homeOff (p : Port) (k : Blk) (off : Nat) : Nat :=
  match k with
  | .bank _ .bk => if 0x300 ≤ off ∧ off < 0x320 then schOff p off else off
  | _ => off

/-- A channel of a bank by its index. -/
def chanNo (b : Bank) (n : Nat) : Chan := b.chan (n % 24)

/-! ### What a register reads (R6) -/

/-- A word of a 64-bit value: 0 the low word, 1 the high word. -/
def word64 (x : Nat) (n : Nat) : Word := BitVec.ofNat 32 (x / 2 ^ (32 * n))

/-- A word with live bits put in place. -/
def putBitsL (w : Word) (l : List (Nat × Nat × Nat)) : Word := l.foldl (fun w x => putBits w x.1 x.2.1 x.2.2) w

/-- DEV registers that show live values. -/
def liveDev (d : Dev) (off : Nat) : Option Word :=
  match off with
  | 0x08 => some (putBit (putBit (rd d bDEV DEV_STS) 16 (supRuns d)) 19 (allChans.any fun c => flag d (chBlk c) CH_MSTS 19))
  | 0x14 => some (BitVec.ofNat 32 ((if d.pwr.fup then 2 else b2n d.pwr.frail) * 0x10000 + fld d bLED LED_PSTATE 15 0))
  | _ => none

/-- Whether the line time is current: the line timer is LOCKED, or announcements arrive (TB_STS.LLOCK). -/
def lineLocked (d : Dev) : Bool := if announcer d then decide (d.tb.line = .locked) else decide (d.tb.hl.miss = 0)

/-- TB registers that show live values. -/
def liveTb (d : Dev) (off : Nat) : Option Word :=
  let k := (off - 0x100) / 0x20
  match off with
  | 0x04 => some (putBitsL (rd d bTB TB_STS) [(17, 17, b2n (lineLocked d)), (16, 16, b2n d.tb.hl.synth)])
  | 0x08 => some (word64 d.tb.now.toNat 0)
  | 0x0C => some (word64 d.tb.now.toNat 1)
  | 0x10 => some (word64 (hostLt d d.tb.now) 0)
  | 0x14 => some (word64 (hostLt d d.tb.now) 1)
  | _ =>
    if off < 0x100 ∨ 0x180 ≤ off then none
    else if (off - 0x100) % 0x20 = 4 then
      some (BitVec.ofNat 32 (min 0xFFFF (sysTdc d k).drop * 0x10000 + (sysTdc d k).queue.length))
    else if 0x10 ≤ (off - 0x100) % 0x20 then some (tdcWord (sysTdc d k).queue.head? ((off - 0x100) % 0x20 / 4 - 4))
    else none

/-- SL registers that show live values. -/
def liveSl (d : Dev) (off : Nat) : Option Word :=
  match off with
  | 0x04 => some (putBitsL (rd d bSL SL_STS)
      [(23, 23, b2n d.sl.egressD), (22, 22, b2n d.sl.pu.lock), (21, 21, b2n d.sl.pd.lock), (20, 20, fld d bSL SL_ADDR 10 10)])
  | _ => none

/-- SEC registers that show live values: SIGNING, the oldest and the number of waiting Colophons, and the certificate window (R383, R396). -/
def liveSec (d : Dev) (off : Nat) : Option Word :=
  match off with
  | 0x00 => some (putBit (rd d bSEC SEC_STS) 16 (decide (d.sec.bodies ≠ []) || decide (d.sec.attests ≠ [])))
  | 0x48 => some (BitVec.ofNat 32 d.sec.store.length)
  | _ => if 0x2000 ≤ off ∧ off < 0x3800 then some (certWord d ((off - 0x2000) / 4)) else none

/-- FOL registers that show live values (R346, R347, R351). -/
def liveFol (d : Dev) (off : Nat) : Option Word :=
  match off with
  | 0x0C => some ((d.folio.ring.head?.map fun r => r.accn).getD 0)
  | 0x10 => some ((d.folio.ring.getLast?.map fun r => r.accn).getD 0)
  | 0x18 => some (opsec d)
  | 0x1C => some d.folio.pcyc
  | _ =>
    if 0x20 ≤ off ∧ off < 0x40 then some (folWin d ((off - 0x20) / 4))
    else if 0x60 ≤ off ∧ off < 0x80 then some (folHwin d ((off - 0x60) / 4))
    else none

/-- CAT registers that show live values (R376, R378, R379). -/
def liveCat (d : Dev) (off : Nat) : Option Word :=
  let sel := fld d bCAT CAT_PSEL 31 0
  let view (f : Word) : Word := if sel < 200 then f else 0
  let ref (die : Nat) : Word := BitVec.ofNat 32 (min 0xFFFF (dieA d die) * 0x10000 + min 0xFFFF (urefOf d die))
  match off with
  | 0x00 => some (putBitsL (rd d bCAT CAT_STS) [(17, 17, b2n (catNohist d)), (16, 16, b2n (catDue d))])
  | 0x18 => some (BitVec.ofNat 32 (catDueDays d))
  | 0x64 => some (view (pairDrift d sel).1)
  | 0x68 => some (view (pairDrift d sel).2)
  | 0x6C => some (ref 0)
  | 0x70 => some (ref 1)
  | _ => none

/-- LED registers that show live values (R273, R275). -/
def liveLed (d : Dev) (off : Nat) : Option Word :=
  match off with
  | 0x18 => some (word64 (ux 64 (ledC d)) 0)
  | 0x1C => some (word64 (ux 64 (ledC d)) 1)
  | 0x24 => some (BitVec.ofNat 32 d.led.queue.length)
  | _ => none

/-- BK registers that show live values; each port reads its own copy of 0x0300 to 0x031C (R223, R224). -/
def liveBk (d : Dev) (p : Port) (b : Bank) (off : Nat) : Option Word :=
  match off with
  | 0x204 => some (BitVec.ofNat 32 (b2n ((bankChans b).any fun c => chanPlays (ch d c).mach)))
  | 0x318 => some 0
  | 0x320 => some (BitVec.ofNat 32 (minLead p))
  | 0x324 => some (BitVec.ofNat 32 (bk d b).seq.pending.length)
  | _ =>
    if 0x300 ≤ off ∧ off < 0x320 then some (rd d (.bank b .bk) (schOff p off))
    else if 0x240 ≤ off ∧ off < 0x280 then
      some (putBits (rd d (.bank b .bk) off) 28 24 (timerUse d b ((off - 0x240) / 4)))
    else none

/-- LOOP registers that show live values (R97, R98). -/
def liveLoop (d : Dev) (b : Bank) (off : Nat) : Option Word :=
  match off with
  | 0x04 => some (putBitsL (rd d (.bank b .loop) LOOP_STS) [(18, 18, b2n (bkEn d b)), (17, 17, b2n (bk d b).seq.endlyAt.isSome)])
  | _ => none

/-- RSV registers that show live values: PHASE is 0 from 1 µs after the handback on (R121). -/
def liveRsv (d : Dev) (b : Bank) (off : Nat) : Option Word :=
  let r := (bk d b).rot
  match off with
  | 0x04 =>
    if r.phase = .selfCal ∧ r.since + tapsPerUs ≤ d.tb.mono then some (putBits (rd d (.bank b .rsv) RSV_STS) 18 16 0) else none
  | _ => none

/-- The number of a capture state (CAP_CSTSc.STATE). -/
def capStateNo : CapState → Nat
  | .idle => 0
  | .primed => 1
  | .armed => 2
  | .filling => 3
  | .done => 4

/-- CAP registers that show live values (R227, R231). -/
def liveCap (d : Dev) (b : Bank) (off : Nat) : Option Word :=
  if off = 0x08 then
    some (BitVec.ofNat 32 (1024 - ((bankChans b).map fun c => capPages d c).foldl (· + ·) 0))
  else if 0x100 ≤ off ∧ off < 0x400 ∧ (off - 0x100) % 0x20 = 8 then
    let k := (ch d (chanNo b ((off - 0x100) / 0x20))).cap
    some (putBitsL (rd d (.bank b .cap) off) [(23, 21, capStateNo k.st), (20, 20, b2n (capBusy k))])
  else none

/-- EIS registers that show live values. -/
def liveEis (d : Dev) (b : Bank) (off : Nat) : Option Word :=
  if 0xC00 ≤ off ∧ off < 0xC60 then
    some (putBits (rd d (.bank b .eis) off) 23 21 (eisEng d (chanNo b ((off - 0xC00) / 4))))
  else none

/-- The level and drops of a channel TDC's host copies (TDC_CLVLc). -/
def tdcLevel (d : Dev) (c : Chan) : Word :=
  BitVec.ofNat 32 (min 0xFFFF (ch d c).tdc.drop * 0x10000 + (ch d c).tdc.queue.length)

/-- TDC registers that show live values. TDC_CLVL0 to 7 share their offsets with TDC_CCFG16 to 23: which one a read gives is the
implementation's. -/
def liveTdc (d : Dev) (b : Bank) (off : Nat) : Option Word :=
  if 0x80 ≤ off ∧ off < 0xA0 then
    if Config.tdcOverlapLevel then some (tdcLevel d (chanNo b ((off - 0x80) / 4))) else none
  else if 0xA0 ≤ off ∧ off < 0xE0 then some (tdcLevel d (chanNo b ((off - 0x80) / 4)))
  else if 0x100 ≤ off ∧ off < 0x280 then
    some (tdcWord (ch d (chanNo b ((off - 0x100) / 0x10))).tdc.queue.head? (off % 0x10 / 4))
  else none

/-- The number of a machine state (CH_ASTS.STATE). -/
def mStateNo : MState → Nat
  | .idle => 0
  | .run => 1
  | .step => 2
  | .wait => 3
  | .halt => 4
  | .safehalt => 5
  | .fault => 6

/-- The age of an aux result in 100 ms (CH_T.AGE). -/
def auxAge (d : Dev) (c : Chan) : Nat :=
  match (ch d c).meas.auxAt with
  | some t => min 0xFFFF ((d.tb.mono - t) / (100 * 1000 * tapsPerUs))
  | none => 0xFFFF

/-- Channel registers that show live values. -/
def liveChan (d : Dev) (c : Chan) (off : Nat) : Option Word :=
  let m := (ch d c).mach
  let w := rd d (chBlk c) off
  match off with
  | 0x00 => some (rd d (chBlk (leadOf d c)) CH_CTRL)
  | 0x74 => some (putBits w 31 16 (auxAge d c))
  | 0x78 => some (word64 (ux 64 (chQ d c)) 0)
  | 0x7C => some (word64 (ux 64 (chQ d c)) 1)
  | 0x80 => some (word64 (ux 64 (chE d c)) 0)
  | 0x84 => some (word64 (ux 64 (chE d c)) 1)
  | 0x104 => some (putBits w 23 21 (if isFollower d c then 7 else mStateNo m.st))
  | 0x108 => some (putBits w 15 0 m.pc)
  | 0x114 => some (BitVec.ofNat 32 (m.ev % 256 * 256))
  | 0x118 => some (BitVec.ofNat 32 (m.calls.length * 256 + m.loops.length * 16 + b2n m.z * 8 + b2n m.n * 4 + b2n m.c * 2 + b2n m.v))
  | 0x184 => some (putBits w 23 12 m.fifo.length)
  | 0x190 => some m.widx
  | 0x194 => some m.pidx
  | 0x1C4 => some (putBit w 2 (ledWaiting d c))
  | _ => if 0x140 ≤ off ∧ off < 0x180 then some (wReg m ((off - 0x140) / 4)) else none

/-- CMP registers that show live values: VALID of CMP_STS when it is due (R295). -/
def liveCmp (d : Dev) (b : Bank) (off : Nat) : Option Word :=
  if 0x100 ≤ off ∧ off < 0x400 ∧ off % 0x20 = 0xC then
    let w := rd d (bCMP b) off
    some (putBit w 20 (bit w 20 || cmpDue d (b.chan ((off - 0x100) / 0x20))))
  else none

/-- What a register shows beside or in place of its stored value, for the port that reads it. -/
def liveReg (d : Dev) (p : Port) (k : Blk) (off : Nat) : Option Word :=
  if off = FLT_STS then
    if k = bLED ∨ k = bMSP then none else some (putBit (rd d k FLT_STS) 16 (isLive d k))
  else match k with
    | .host .dev => liveDev d off
    | .host .tb => liveTb d off
    | .host .xc => if off = XC_SPOOL_LVL then some (BitVec.ofNat 32 (spoolLevel d)) else none
    | .host .sl => liveSl d off
    | .host .sec => liveSec d off
    | .host .fol => liveFol d off
    | .host .cat => liveCat d off
    | .host .led => liveLed d off
    | .host .msp => none
    | .host .thm => none
    | .bank b .bk => liveBk d p b off
    | .bank b .loop => liveLoop d b off
    | .bank b .rsv => liveRsv d b off
    | .bank b .cap => liveCap d b off
    | .bank b .eis => liveEis d b off
    | .bank b .tdc => liveTdc d b off
    | .bank _ .mld => none
    | .bank b .cmp => liveCmp d b off
    | .chan c => liveChan d c off

/-- What a register reads through a port, without any side effect. -/
def readVal (d : Dev) (p : Port) (k : Blk) (off : Nat) : Word := (liveReg d p k off).getD (rd d k off)

/-! ### Ports (R43, R44) -/

/-- What an access port holds. -/
def portSt (d : Dev) (p : Port) : PortSt := d.ports.get (portNo p)

/-- The device with what a port holds changed. -/
def modPt (d : Dev) (p : Port) (f : PortSt → PortSt) : Dev :=
  { d with ports := d.ports.set (portNo p).val (f (d.ports.get (portNo p))) (portNo p).isLt }

/-- Sets ACCERR of a block for an access at an offset and alias. -/
def badAcc (d : Dev) (p : Port) (k : Blk) (off al : Nat) : Dev := accErr d p k (off + 0x4000 * al) 1

/-- The effects of a read beyond its value: queue pops (R164) and FOL_WIN7's advance (R351). -/
def readEffect (d : Dev) (k : Blk) (off : Nat) : Dev :=
  match k with
  | .host .tb => if 0x100 ≤ off ∧ off < 0x180 ∧ off % 0x20 = 0x1C then sysPop d ((off - 0x100) / 0x20) else d
  | .host .fol => if off = FOL_WIN + 0x1C then folWinRead d else d
  | .bank b .tdc => if 0x100 ≤ off ∧ off < 0x280 ∧ off % 0x10 = 0xC then chanPop d (chanNo b ((off - 0x100) / 0x10)) else d
  | _ => d

/-- What a read gives through the port's read shadow (R43): a low word `v` loads the shadow with the high word `hi` under the key after its
own; a high word that the shadow is tagged with comes from the shadow and empties it. -/
def viaShadow (d : Dev) (p : Port) (key : Nat) (lo : Bool) (v hi : Word) : Word × Dev :=
  if lo then (v, modPt d p fun s => { s with rd := some ⟨key + 4, hi⟩ })
  else match (portSt d p).rd with
    | some s => if s.tag = key then (s.val, modPt d p fun x => { x with rd := none }) else (v, d)
    | none => (v, d)

/-- A valid read of a register (R6, R37, R43, R54). -/
def regRead (d : Dev) (p : Port) (k : Blk) (off al : Nat) : Word × Dev :=
  match regAt k off with
  | none => (0, badAcc d p k off al)
  | some (r, _) =>
    let key := regKey k off
    let x := viaShadow d p key r.lo64 (readVal d p k off) (readVal d p k (off + 4))
    let d := if r.ra ≠ 0 ∧ !d.seen.contains key then { x.2 with seen := d.seen ++ [key] } else x.2
    (x.1, readEffect d k off)

/-- A read of a field block's fault register from HD's mirror, when the crossing does not work (R43, R338). DESIGN CHOICE (log entry
97): it does not count as a read of the register for a write-back under R54. -/
def mirrorRead (d : Dev) (p : Port) (k : Blk) (off : Nat) : Word × Dev :=
  let at_ (o : Nat) : Word := smGet regDefault d.mirror (regKey k o)
  viaShadow d p (regKey k off) (decide (off = FLT_TS_LO)) (at_ off) (at_ (off + 4))

/-! ### Write rules (R37, R44, R48 to R54) -/

/-- The value a write through an alias asks for (R37): 0 normal, 1 set, 2 clear, 3 toggle. -/
def aliasVal (al : Nat) (old v : Word) : Word :=
  match al with
  | 0 => v
  | 1 => old ||| v
  | 2 => old &&& ~~~v
  | _ => old ^^^ v

/-- What a WO field is written with: a write through the clear or toggle alias does nothing (R37). -/
def woVal (al : Nat) (v : Word) : Word := if al ≤ 1 then v else 0

/-- The bits a write through an alias touches (R37). -/
def touched (al : Nat) (v : Word) : Word := if al = 0 then 0xFFFFFFFF else v

/-- A field clamped to a range of stored values. -/
def clampF (w : Word) (hi lo mn mx : Nat) : Word := putBits w hi lo (max mn (min mx (bits w hi lo)))

/-- A field whose value `bad` is stored as `good`. -/
def swapF (w : Word) (hi lo bad good : Nat) : Word := if bits w hi lo = bad then putBits w hi lo good else w

/-- How TB stores values outside a field's range. -/
def normTb (off : Nat) (w : Word) : Word :=
  if off = TB_CTL then swapF w 2 1 3 0
  else if off = TB_LINE_NOM then clampF w 31 0 45000 65000
  else if off = TB_TSYNC_CFG then clampF w 4 0 16 26
  else if 0x100 ≤ off ∧ off < 0x180 ∧ off % 0x20 = 0 then swapF (swapF w 5 4 0 1) 11 10 3 0
  else w

/-- How a channel window stores values outside a field's range. -/
def normChan (off : Nat) (w : Word) : Word :=
  if off = CH_PWM_PER then clampF w 20 0 102400 2048000
  else if off = CH_MCFG then swapF (swapF (swapF w 5 4 2 0) 5 4 3 0) 1 0 3 2
  else if off = CH_MDEC then clampF w 23 0 40 10000000
  else if off = CH_MREC then clampF w 15 0 1 0xFFFF
  else if off = CH_AUXCFG then swapF (clampF w 15 8 1 0xFF) 1 0 3 0
  else w

/-- How BK stores values outside a field's range. -/
def normBk (off : Nat) (w : Word) : Word :=
  if off = BK_WDIR then clampF w 12 0 0 4096
  else if BK_WTMR ≤ off ∧ off < BK_WTMR + 0x40 then
    if bit w 30 then putBits (clampF w 12 0 1 4096) 23 13 0 else clampF w 23 0 1 0xFFFFFF
  else w

/-- How a register stores a value outside a field's range, as its field table says. -/
def normReg (k : Blk) (off : Nat) (w : Word) : Word :=
  match k with
  | .host .xc => if off = XC_AUTO then clampF w 15 0 1 60000 else w
  | .host .tb => normTb off w
  | .host .sl => if off = SL_SPLIT then clampF w 6 0 0 64 else w
  | .host .led =>
    if off = LED_ETA then clampF (clampF w 26 16 512 1024) 10 0 512 1024
    else if off = LED_RCFG then clampF w 7 0 1 0xFF else w
  | .bank _ .bk => normBk off w
  | .bank _ .cap => if 0x100 ≤ off ∧ off < 0x400 ∧ off % 0x20 = 0 then clampF w 23 0 40 10000000 else w
  | .bank _ .mld => if MLD_CFG ≤ off ∧ off < MLD_CFG + 0x40 then clampF (clampF w 14 8 0 64) 6 0 0 64 else w
  | .bank _ .cmp => if off = CMP_TICK then clampF w 15 0 1 64000 else w
  | .bank _ .tdc => if 0x40 ≤ off ∧ off < 0xA0 then swapF (swapF w 4 3 0 3) 6 5 3 0 else w
  | .chan _ => normChan off w
  | _ => w

/-- The value asked for, before it is cut to the register's bits: LED_WAKEb saturates (R283). -/
def preNorm (k : Blk) (off : Nat) (w : Word) : Word :=
  if k = bLED ∧ LED_WAKE ≤ off ∧ off < LED_WAKE + 0x20 ∧ 0xFFFFFF < w.toNat then 0xFFFFFF else w

/-- The value of the governing EN bit of a register's configuration fields (R50). -/
def govEn (d : Dev) (k : Blk) (off : Nat) : Bool :=
  match k with
  | .host .tb => if 0x100 ≤ off then flag d k off 0 else flag d k TB_CTL 0
  | .host .fol => flag d k (FOL_SRC + (off - FOL_SRC) % 0x100) 31
  | .host .led => flag d k LED_CTL 0
  | .bank b .bk => if off = BK_WDIR then (bankChans b).any fun c => chanPlays (ch d c).mach else flag d k off 31
  | .bank b .loop => if off < LOOP_GRP then flag d k LOOP_CTL 0 else flag d (chBlk (leadOf d (chanNo b ((off - LOOP_GRP) / 4)))) CH_CTRL 0
  | .bank b .cap => capBusy (ch d (chanNo b ((off - 0x100) / 0x20))).cap
  | .bank _ .mld => flag d k off 31
  | .bank _ .eis =>
    if off < 0x900 then flag d k (EIS_CFG0 + (off - 0x100) / 0x80 * 0x80) 31 else flag d k (PLS_CFG + (off - 0x900) / 0x20 * 0x20) 31
  | .bank b .cmp => flag d (chBlk (leadOf d (chanNo b ((off - 0x100) / 0x20)))) CH_CTRL 0
  | .bank _ .rsv => flag d k RSV_CTL 0
  | .bank _ .tdc => flag d k off 0
  | .chan c => if off = CH_SSCALE ∨ off = CH_SOFS then flag d k CH_SCTL 0 else flag d (chBlk (leadOf d c)) CH_CTRL 0
  | _ => false

/-- Whether a running step of a bank uses EIS profile `p`, or with `pulse` pulse profile `p`. -/
def profileRuns (d : Dev) (b : Bank) (p : Nat) (pulse : Bool) : Bool :=
  (bankChans b).any fun c =>
    match (ch d c).mach.step with
    | some s => match s.kind with
      | .eis x => !pulse && decide (x.val = p)
      | .pulse _ _ _ x => pulse && decide (x.val = p)
      | _ => false
    | none => false

/-- Whether an EN bit in [31] must stay 1: a timer in use, a bound Mould, a profile that runs (R208, R244, R251, R261). -/
def enHeld (d : Dev) (k : Blk) (off : Nat) : Bool :=
  match k with
  | .bank b .bk => decide (BK_WTMR ≤ off ∧ off < BK_WTMR + 0x40) && decide (timerUse d b ((off - BK_WTMR) / 4) ≠ 0)
  | .bank b .mld => decide (MLD_CFG ≤ off ∧ off < MLD_CFG + 0x40) && mldBound d b ((off - MLD_CFG) / 4)
  | .bank b .eis =>
    if off < 0x900 then decide (off % 0x80 = 0) && profileRuns d b ((off - 0x100) / 0x80) false
    else decide (off % 0x20 = 0) && profileRuns d b ((off - 0x900) / 0x20) true
  | _ => false

/-- The bits a write may not change now (R50 to R52): configuration fields while their EN bit is 1, and an EN bit that is held. -/
def lateMask (d : Dev) (k : Blk) (off cfg : Nat) : Nat :=
  (if govEn d k off then cfg else 0) + (if flag d k off 31 && enHeld d k off then 0x80000000 else 0)

/-- Stores the fields of `mask` of a register, under the rules for aliases, ranges and configuration fields (R6, R37, R50 to R52); bits
that a protective clear has taken in the same cycle stay 0 (R47). -/
def store (d : Dev) (p : Port) (k : Blk) (off al : Nat) (v : Word) (mask cfg : Nat) : Dev :=
  let home := homeOff p k off
  let old := rd d k home
  let want := merge old (normReg k off (merge old (preNorm k off (aliasVal al old v)) mask)) mask
  let late := lateMask d k off cfg
  let gone := maskIn d.cleared (regKey k home)
  let d1 := { wr d k home (merge (merge want old late) 0 gone) with
    wrote := d.wrote ++ [(regKey k home, (touched al v &&& BitVec.ofNat 32 mask).toNat)] }
  if (want ^^^ old) &&& BitVec.ofNat 32 late = 0 then d1 else accErr d1 p k (off + 0x4000 * al) 2

/-- A low word of a writable 64-bit value goes to the port's write shadow (R44); the tag is a register key, or an address of the
program store. A pending value is discarded with ACCERR of its block. DESIGN CHOICE (log entry 95): ACC_ADDR then shows the discarded
low word's own offset at the normal alias and the port of the new write. -/
def holdLow (d : Dev) (p : Port) (tag : Nat) (v : Word) : Dev :=
  let d := match (portSt d p).wr with
    | none => d
    | some s =>
      if 0x40000000 ≤ s.tag then
        accErr d p (.bank (bankNo ((s.tag - 0x40000000) / 0x04000000)) .bk) (s.tag - 4) 1
      else accErr d p (blkOfIdx (s.tag / 0x4000)) (s.tag % 0x4000 - 4) 1
  modPt d p fun s => { s with wr := some ⟨tag, v⟩ }

/-- The low word that the port's write shadow holds for a tag, and the port with it taken. -/
def takeLow (d : Dev) (p : Port) (tag : Nat) : Option Word × Dev :=
  match (portSt d p).wr with
  | some s => if s.tag = tag then (some s.val, modPt d p fun x => { x with wr := none }) else (none, d)
  | none => (none, d)

/-- Whether the lock of a block is open (R48). -/
def lockOpen (d : Dev) (k : Blk) : Bool := d.unlocked.contains (blkIdx k)

/-- The lock of a block armed. -/
def armLock (d : Dev) (k : Blk) : Dev := { d with unlocked := d.unlocked.filter fun x => x != blkIdx k }

/-- A write to UNLOCK (R48). -/
def unlockWrite (d : Dev) (p : Port) (k : Blk) (al : Nat) (v : Word) : Dev :=
  if al ≠ 0 then badAcc d p k UNLOCK_OFF al
  else if v = 0x5AFE0192 then (if lockOpen d k then d else { d with unlocked := d.unlocked ++ [blkIdx k] })
  else armLock d k

/-- What the clearing of a status register's RA bits brings with it: ACC_ADDR (R40), the end of the autonomous safe state (R18), BKn_EN (R97). -/
def afterAck (d0 d : Dev) (k : Blk) (off : Nat) : Dev :=
  if off = ACC_STS then wr d k ACC_ADDR 0
  else if k = bXC ∧ off = XC_STS ∧ flag d0 bXC XC_STS 2 then
    bkSettleAll (unlive { d with xc := { d.xc with autoSafe := false } } bXC 0x1005)
  else match k with
    | .bank b .loop => if off = LOOP_STS then bkSettle d b else d
    | _ => d

/-- The RA bits that a write-back clears: CMP_ILK.LATCH only while FILK is 0 (R300). -/
def ackMask (d : Dev) (k : Blk) (off ra : Nat) : Nat :=
  match k with
  | .bank _ .cmp => if off = CMP_ILK ∧ flag d k CMP_ILK 16 then 0 else ra
  | _ => ra

/-- A write-back to a status register through the normal alias (R54, R337). -/
def ackWrite (d : Dev) (k : Blk) (off ra : Nat) (v : Word) : Dev :=
  if bits v 31 24 ≠ fld d k off 31 24 ∨ !d.seen.contains (regKey k off) then d
  else if off = FLT_STS then clearFaults d k
  else afterAck d (wr d k off (merge (rd d k off) 0 (ackMask d k off ra))) k off

/-- A write to a W1 register after its first one (R49). -/
def onceLate (d : Dev) (p : Port) (k : Blk) (off al : Nat) (v : Word) : Dev :=
  let d := bump (accErr d p k (off + 0x4000 * al) 3) k ACC_LOCKV_CNT
  if blkField k then fieldEvent d k 0x8010 (locBlk k) (BitVec.ofNat 32 off) v
  else folEvent d 0x8010 false (locBlk k) (BitVec.ofNat 32 off) v

/-! ### What writes do, block by block -/

/-- A write of SL_RING, the one W1 register (R49, R323). -/
def slRing (d : Dev) (p : Port) (al : Nat) (v : Word) : Dev :=
  let key := regKey bSL SL_RING
  if d.written.contains key then onceLate d p bSL SL_RING al v
  else ringWrite { store d p bSL SL_RING al v 0xF 0 with written := d.written ++ [key] }

/-- TB_TSSET takes a high word and the held low word (R48, R139): `true` for BADTS. -/
def tssetStore (d : Dev) (p : Port) (al : Nat) (v : Word) : Dev × Bool :=
  let was := lockOpen d bTB
  let x := takeLow (armLock d bTB) p (regKey bTB TB_TSSET_HI)
  if !was then (x.2, false) else
  let lo := x.1.getD (rd d bTB TB_TSSET_LO)
  let hi := aliasVal al (rd d bTB TB_TSSET_HI) v
  if tsValid (BitVec.ofNat 64 (lo.toNat + 0x100000000 * hi.toNat)) then (wr (wr x.2 bTB TB_TSSET_LO lo) bTB TB_TSSET_HI hi, false)
  else (badAcc x.2 p bTB TB_TSSET_HI al, true)

/-- BK_SCH_LT takes a high word and the held low word (R44, R223). -/
def schLtStore (d : Dev) (p : Port) (b : Bank) (al : Nat) (v : Word) : Dev :=
  let k : Blk := .bank b .bk
  let x := takeLow d p (regKey k BK_SCH_LT_HI)
  let d := match x.1 with
    | some lo => wr x.2 k (schOff p BK_SCH_LT_LO) lo
    | none => x.2
  store d p k BK_SCH_LT_HI al v allBits 0

/-- DEV_CTL.FREBOOT (ch. Power-up): a field reboot, barred while a bank is enabled. It reads 0. -/
def devCtl (m : Mem) (d : Dev) (p : Port) (al : Nat) (v : Word) : Mem × Dev :=
  if !bit (aliasVal al 0 v) 0 then (m, d)
  else if anyBken d then (m, badAcc d p bDEV DEV_CTL al)
  else ([], fieldReboot d 3)

/-- A guarded write that the lock lets through. -/
def guarded (m : Mem) (d : Dev) (p : Port) (k : Blk) (off al : Nat) (v : Word) (mask : Nat) : Mem × Dev :=
  let val := aliasVal al (rd d k off) v
  let st := store d p k off al v mask 0
  match k with
  | .host .dev => devCtl m d p al v
  | .host .sec =>
    if off = SEC_ARBCMT then (m, if bit (aliasVal al 0 v) 0 then arbCommit d else d)
    else if bit val 0 then switchCmd ⟨bits val 5 4 % 4, Nat.mod_lt _ (by decide)⟩ m st
    else (m, st)
  | .host .cat =>
    if off = CAT_CALCMD then (m, calcmdWrite st val)
    else if off = CAT_SHCMD then (m, shcmdWrite st val)
    else if flag d bCAT CAT_CALSTS 31 then (m, badAcc d p k off al)
    else (m, st)
  | .host .thm => (m, sensReadmit st val)
  | _ => (m, st)

/-- What follows a write of TB_CTL: TEN and LSRC take effect when they rise (R148, R443). -/
def tbCtlAfter (d0 d : Dev) : Dev :=
  let d := if !flag d0 bTB TB_CTL 3 && flag d bTB TB_CTL 3 then lsrcSet d else d
  if !flag d0 bTB TB_CTL 0 && flag d bTB TB_CTL 0 then tenSet d else d

/-- What follows a write of SL_CTL: a port whose enable falls is lost (R325). -/
def slCtlAfter (d0 d : Dev) : Dev :=
  let d := if flag d0 bSL SL_CTL 0 && !flag d bSL SL_CTL 0 then portLoss d .u 2 else d
  if flag d0 bSL SL_CTL 1 && !flag d bSL SL_CTL 1 then portLoss d .d 2 else d

/-- What follows a write of SL_SPLIT: the egress port is the one of R320 unless it has been switched (R326). -/
def splitAfter (d0 d : Dev) : Dev :=
  if d0.sl.egressD = egressHome d0 then { d with sl := { d.sl with egressD := egressHome d } } else d

/-- A write of MSP_CFG: WLEN outside 4 to 32 keeps its value (R56). -/
def mspCfg (d : Dev) (p : Port) (al : Nat) (v : Word) : Dev :=
  let st := store d p bMSP MSP_CFG al v 0x13F 0
  if 4 ≤ fld st bMSP MSP_CFG 5 0 ∧ fld st bMSP MSP_CFG 5 0 ≤ 32 then st
  else badAcc (setFld st bMSP MSP_CFG 5 0 (fld d bMSP MSP_CFG 5 0)) p bMSP MSP_CFG al

/-- Writes of the host blocks that are no plain store; none for a plain store. -/
def hostWrite (d : Dev) (p : Port) (h : HostBlk) (off al : Nat) (v : Word) (r : RegDef) : Option Dev :=
  let k : Blk := .host h
  let st := store d p k off al v r.rw r.cfg
  match h with
  | .tb =>
    if off = TB_CTL then some (tbCtlAfter d st)
    else if off = TB_CAL then some (tbCalWrite d (merge (aliasVal al (rd d k off) v) (woVal al v) 0x80000000))
    else none
  | .sl =>
    if off = SL_CTL then some (slCtlAfter d st)
    else if off = SL_SPLIT then some (splitAfter d st)
    else if off = SL_RING then some (slRing d p al v)
    else none
  | .msp => if off = MSP_CFG then some (mspCfg d p al v) else none
  | .sec => if off = SEC_CACK then some (if al ≤ 1 then coloAck d v else d) else none
  | .fol =>
    if FOL_SRC ≤ off ∧ off < FOL_SRC + 0x100 then
      some (if !flag d k off 31 && flag st k off 31 then folSrcOn st ((off - FOL_SRC) / 4) else st)
    else none
  | .led =>
    if LED_WAKE ≤ off ∧ off < LED_WAKE + 0x20 then
      some (if fld st k off 23 0 = 0 then wakeBank st (bankNo ((off - LED_WAKE) / 4)) else st)
    else none
  | _ => none

/-- A write of FOL_CTL (R352, R353); the fault-reporting core of the fatal state takes FREEZE only (R341). -/
def folCtl (d : Dev) (p : Port) (al : Nat) (v : Word) : Dev :=
  let was := lockOpen d bFOL
  let val := aliasVal al (rd d bFOL FOL_CTL) v
  let d := armLock d bFOL
  if d.pwr.fatal.isSome then folCtlWrite d p al (putBit (putBits val 9 8 0) 1 (flag d bFOL FOL_CTL 1)) false
  else folCtlWrite d p al val was

/-- A write of BK registers that is no plain store (R198, R208, R224). -/
def bkWrite (d : Dev) (p : Port) (b : Bank) (off al : Nat) (v : Word) : Option Dev :=
  if off = BK_PCTL then some (if al ≤ 1 then pctlWrite d p b al v else d)
  else if off = BK_SCH_GO then some (if al ≤ 1 && bit v 0 then schSubmit d p b else d)
  else none

/-- A write of LOOP registers that is no plain store (R93, R97, R101). -/
def loopWrite (d : Dev) (p : Port) (b : Bank) (off al : Nat) (v : Word) (r : RegDef) : Option Dev :=
  let k : Blk := .bank b .loop
  if off = LOOP_CTL then
    let want := bit (aliasVal al (rd d k LOOP_CTL) v) 0
    some (if touched al v &&& 1 = 0 then d
      else if want then (if bkenBarred d b then badAcc d p k off al else bankEnable d b)
      else if flag d k LOOP_CTL 0 then bankDisable d b else d)
  else if LOOP_GRP ≤ off ∧ off < LOOP_GRP + 0x60 then
    let st := store d p k off al v (r.rw - 0xF) r.cfg
    let c := chanNo b ((off - LOOP_GRP) / 4)
    let n := bits (aliasVal al (rd d k off) v) 3 0
    some (if touched al v &&& 0xF = 0 then st else if grpRefused d c n then grpRefuse d c else grpWrite st c n)
  else none

/-- A write of CAP registers that is no plain store: an allocation is checked (R227, R228), and CAP_CCMDc acts. -/
def capWrite (d : Dev) (p : Port) (b : Bank) (off al : Nat) (v : Word) (r : RegDef) : Option Dev :=
  let k : Blk := .bank b .cap
  let c := chanNo b ((off - 0x100) / 0x20)
  if 0x100 ≤ off ∧ off < 0x400 ∧ off % 0x20 = 4 then
    let st := store d p k off al v r.rw r.cfg
    some (if rd st k off = rd d k off then st
      else if allocOk d c (fld st k off 9 0) (fld st k off 26 16) then st else raEvent d k CAP_STS 0x1)
  else if 0x100 ≤ off ∧ off < 0x400 ∧ off % 0x20 = 0xC then some (if al ≤ 1 then ccmdWrite d c v else d)
  else none

/-- An EN bit in [31] that a write has set stays 1 only when its check passes; else it is 0 and a status bit is set (R244, R251, R261). -/
def enChecked (d0 d : Dev) (k : Blk) (off : Nat) (ok : Bool) (sts bad : Nat) : Dev :=
  if flag d0 k off 31 || !flag d k off 31 || ok then d else raEvent (setFlag d k off 31 false) k sts bad

/-- Writes of MLD and EIS configurations: EN is checked when it is set (R244, R251, R261). -/
def profWrite (m : Mem) (d : Dev) (p : Port) (b : Bank) (x : BankBlk) (off al : Nat) (v : Word) (r : RegDef) : Option Dev :=
  let k : Blk := .bank b x
  let st := store d p k off al v r.rw r.cfg
  match x with
  | .mld =>
    if MLD_CFG ≤ off ∧ off < MLD_CFG + 0x40 then
      some (enChecked d st k off (mldMayEnable m st b ((off - MLD_CFG) / 4)) MLD_STS 0x2)
    else none
  | .eis =>
    if 0x100 ≤ off ∧ off < 0x900 ∧ off % 0x80 = 0 then
      some (enChecked d st k off (eisProfileOk st b ((off - 0x100) / 0x80)) EIS_STS 0x1)
    else if 0x900 ≤ off ∧ off < 0xB00 ∧ off % 0x20 = 0 then
      some (enChecked d st k off (plsProfileOk st b ((off - 0x900) / 0x20)) EIS_STS 0x2)
    else none
  | _ => none

/-- A write of CMP registers that is no plain store: IDLE settles what continuous operation has decided (R289), and a self-check begins (R304). -/
def cmpWrite (d : Dev) (p : Port) (b : Bank) (off al : Nat) (v : Word) (r : RegDef) : Option Dev :=
  let k : Blk := .bank b .cmp
  if off = CMP_CTL then
    let st := store (forEach (bankChans b) d trimSettle) p k off al v r.rw r.cfg
    some (forEach (bankChans b) st fun st c => cmpRestart (cmpCont d c) st c)
  else if off = CMP_TICK then
    let st := store d p k off al v r.rw r.cfg
    some (tickWrite st b (fld st k CMP_TICK 15 0))
  else if off = CMP_SCHK then some (if al ≤ 1 then schkWrite p d b al (bits v 23 0) else d)
  else none

/-- A write of CH_CTRL (R51, R80, R100, R101): configuration first, then EN. -/
def chCtrl (d : Dev) (p : Port) (c : Chan) (al : Nat) (v : Word) : Dev :=
  let k := chBlk c
  let en := bit (aliasVal al (rd d k CH_CTRL) v) 0
  let st := store (wakeBank d c.bank) p k CH_CTRL al v 0x12 0x12
  let st := if flag d k CH_CTRL 1 ≠ flag st k CH_CTRL 1 then forEach (members st c) st safeLands else st
  if en then enableChan (forEach (members st c) st cmpValidate) c else disableChan st c

/-- The registers of a follower that its group's leader speaks for (R29). -/
def followerRefuses (off : Nat) : Bool :=
  decide (off ∈ [CH_CTRL, CH_ACTL, CH_AEV, CH_SCTL, CH_SSCALE, CH_SOFS, CH_SREC]) || decide (CH_APAR ≤ off ∧ off < CH_APAR + 0x20)

/-- A write of a channel window that is no plain store. -/
def chanWrite (m : Mem) (d : Dev) (p : Port) (c : Chan) (off al : Nat) (v : Word) (r : RegDef) : Option Dev :=
  let k := chBlk c
  if isFollower d c && followerRefuses off then some (accErr d p (bankOf c .bk) (off + 0x4000 * al) 1)
  else if off = CH_CTRL then some (chCtrl d p c al v)
  else if off = CH_ACTL then some (if al ≤ 1 then actlWrite m (wakeBank d c.bank) p c al v else d)
  else if off = CH_AEV then some (if al ≤ 1 then aevWrite m (wakeBank d c.bank) p c al v else d)
  else if off = CH_MCTL then some (if al ≤ 1 then mctlWrite d c v else d)
  else if off = CH_SCTL then
    let st := store d p k off al v r.rw r.cfg
    some (if al ≤ 1 && bit v 1 then streamReset st p c al else st)
  else if off = CH_AUXCFG then
    let st := store d p k off al v r.rw r.cfg
    some (if fld st k off 1 0 = 0 then modMeas (setFld st k CH_T 15 0 0x8000) c fun m => { m with tHist := [] } else st)
  else none

/-- Writes of the field blocks that are no plain store. -/
def fieldWrite (m : Mem) (d : Dev) (p : Port) (k : Blk) (off al : Nat) (v : Word) (r : RegDef) : Option Dev :=
  match k with
  | .bank b .bk => bkWrite d p b off al v
  | .bank b .loop => loopWrite d p b off al v r
  | .bank b .cap => capWrite d p b off al v r
  | .bank b .mld => profWrite m d p b .mld off al v r
  | .bank b .eis => profWrite m d p b .eis off al v r
  | .bank b .cmp => cmpWrite d p b off al v r
  | .chan c => chanWrite m d p c off al v r
  | _ => none

/-- A write of a register, once its address, width and row are known to be valid; `true` for BADTS. -/
def rowWrite (m : Mem) (d : Dev) (p : Port) (k : Blk) (off al : Nat) (v : Word) (r : RegDef) : Mem × Dev × Bool :=
  let plain := store d p k off al v r.rw r.cfg
  if r.ra ≠ 0 then (m, if al = 0 then ackWrite d k off r.ra v else d, false)
  else if r.lo64 ∧ (r.rw ≠ 0 ∨ r.wk ≠ 0) then
    (m, holdLow d p (regKey k (off + 4)) (aliasVal al (rd d k (homeOff p k off)) v), false)
  else if k = bTB ∧ off = TB_TSSET_HI then let x := tssetStore d p al v; (m, x.1, x.2)
  else if k = bFOL ∧ off = FOL_CTL then (m, folCtl d p al v, false)
  else if r.wk ≠ 0 then
    if lockOpen d k then let x := guarded m (armLock d k) p k off al v r.wk; (x.1, x.2, false) else (m, armLock d k, false)
  else match k with
    | .host h => (m, (hostWrite d p h off al v r).getD plain, false)
    | .bank b .bk => if off = BK_SCH_LT_HI then (m, schLtStore d p b al v, false) else (m, (fieldWrite m d p k off al v r).getD plain, false)
    | _ => (m, (fieldWrite m d p k off al v r).getD plain, false)

/-- A write at an offset of a block (R41): `true` for BADTS. -/
def regWrite (m : Mem) (d : Dev) (p : Port) (k : Blk) (off al : Nat) (v : Word) : Mem × Dev × Bool :=
  match regAt k off with
  | none => (m, badAcc d p k off al, false)
  | some (r, _) => if off = UNLOCK_OFF then (m, unlockWrite d p k al v, false) else rowWrite m d p k off al v r

/-! ### Bank memories (R198, R210, R229, R243) -/

/-- A write to the high word of a program store word (R198): it stores the word, unless it lies inside a committed image. -/
def progWrite (m : Mem) (d : Dev) (p : Port) (b : Bank) (i : Nat) (v : Word) : Mem × Dev :=
  let a := bankMem b + 8 * i
  let x := takeLow d p (a + 4)
  if inImage d b i then (m, accErr x.2 p (.bank b .bk) (a + 4) 1)
  else
    let d := modSeq x.2 b fun q => { q with eccWords := q.eccWords.filter fun w => w != i }
    match x.1 with
    | some lo => ((m.write32 a lo).write32 (a + 4) v, d)
    | none => (m.write32 (a + 4) v, d)

/-- A 32-bit write to a region of a bank memory window. -/
def memWrite (m : Mem) (d : Dev) (p : Port) (b : Bank) (r o : Nat) (v : Word) : Mem × Dev :=
  let a := bankMem b + 0x1000000 * r + o
  match r with
  | 0 => if o % 8 = 0 then (m, holdLow d p (a + 4) v) else progWrite m d p b (o / 8) v
  | 1 => (m.write32 a v, modSeq (waveNote m d b (o / 2)) b fun q => { q with badSegs := q.badSegs.filter fun s => s != o / 16 })
  | 2 => (m, raEvent d (.bank b .cap) CAP_STS 0x2)
  | _ =>
    if flag d (.bank b .mld) (MLD_CFG + 4 * (o / 0x400)) 31 then (m, accErr d p (.bank b .mld) a 2)
    else (m.write32 a v, d)

/-- A 32-bit read of a region of a bank memory window. A program word is a 64-bit value: its low word loads the port's read shadow and its
high word takes it (R43, R198). -/
def memRead (m : Mem) (d : Dev) (p : Port) (r : Nat) (a : Nat) : Word × Dev :=
  if r ≠ 0 then (m.read32 a, d) else viaShadow d p a (decide (a % 8 = 0)) (m.read32 a) (m.read32 (a + 4))

/-! ### The access (R36, R41, R42, R405) -/

/-- Whether an access is narrow or misaligned (R41). -/
def badWidth (w : Width) (a : Word) : Bool := decide (w ≠ .b32) || decide (a.toNat % 4 ≠ 0)

/-- Whether a field register is read from HD's mirror because the crossing does not work (R338). -/
def mirrored (d : Dev) (k : Blk) (off : Nat) : Bool := blkField k && !d.xc.up && fltOffsets.contains off

/-- A read of an address through a port (R36, R41, R42, R405): the word, the status of R315 and the device. MSP_XDATA reads 0 here. -/
def directRead (m : Mem) (d : Dev) (p : Port) (w : Width) (a : Word) : Word × Nat × Dev :=
  match locate a with
  | .none => (0, 1, accErr d p bDEV a.toNat 1)
  | .reg k off al =>
    if blkField k && !d.pwr.fup then (0, 0, accErr d p bDEV a.toNat 1)
    else if mirrored d k off && !badWidth w a then let x := mirrorRead d p k off; (x.1, 0, x.2)
    else if blkField k && !d.xc.up then (0, 0, d)
    else if badWidth w a then (0, 0, accErr d p k a.toNat 1)
    else let x := regRead d p k off al; (x.1, 0, x.2)
  | .mem b r _ =>
    if !d.pwr.fup then (0, 0, accErr d p bDEV a.toNat 1)
    else if !d.xc.up then (0, 0, d)
    else if badWidth w a then (0, 0, accErr d p (.bank b .bk) a.toNat 1)
    else let x := memRead m d p r a.toNat; (x.1, 0, x.2)

/-- A submission while the field side is not up is refused with reason STATE (R405). -/
def downWrite (d : Dev) (p : Port) (k : Blk) (off al : Nat) (v : Word) : Dev :=
  match k with
  | .bank b .bk => if off = BK_SCH_GO ∧ al ≤ 1 ∧ bit v 0 then schSubmit d p b else d
  | _ => d

/-- A write of an address through a port: the memory, the device and the status of R315. MSP_XDATA takes nothing here. -/
def directWrite (m : Mem) (d : Dev) (p : Port) (w : Width) (a : Word) (v : Word) : Mem × Dev × Nat :=
  match locate a with
  | .none => (m, accErr d p bDEV a.toNat 1, 1)
  | .reg k off al =>
    if blkField k && !d.pwr.fup then (m, downWrite (accErr d p bDEV a.toNat 1) p k off al v, 0)
    else if blkField k && !d.xc.up then (m, d, 0)
    else if badWidth w a then (m, accErr d p k a.toNat 1, 0)
    else let x := regWrite m d p k off al v; (x.1, x.2.1, if x.2.2 then 2 else 0)
  | .mem b r o =>
    if !d.pwr.fup then (m, accErr d p bDEV a.toNat 1, 0)
    else if !d.xc.up then (m, d, 0)
    else if badWidth w a then (m, accErr d p (.bank b .bk) a.toNat 1, 0)
    else let x := memWrite m d p b r o v; (x.1, x.2, 0)

/-- The address that an access to MSP_XDATA stands for (R62): MSP_XADDR, with the alias of the access when the address has none of its own.
None for an access that is no valid access to MSP_XDATA. -/
def xdataOf (d : Dev) (w : Width) (a : Word) : Option Word :=
  match locate a with
  | .reg k off al =>
    if k ≠ bMSP ∨ off ≠ MSP_XDATA ∨ badWidth w a then none else
    let t := rd d bMSP MSP_XADDR
    match locate t with
    | .reg _ _ 0 => some (t + BitVec.ofNat 32 (0x4000 * al))
    | _ => some t
  | _ => none

/-- Whether an address is MSP_XDATA itself: an indirect access to it does nothing and reads 0. -/
def isXdata (t : Word) : Bool :=
  match locate t with
  | .reg k off _ => decide (k = bMSP) && decide (off = MSP_XDATA)
  | _ => false

/-- A read of an address through a port. -/
def busRead (m : Mem) (d : Dev) (p : Port) (w : Width) (a : Word) : Word × Nat × Dev :=
  let d := accessCycle d (portNo p).val
  match xdataOf d w a with
  | some t => if isXdata t then (0, 0, d) else directRead m d p .b32 t
  | none => directRead m d p w a

/-- A write of an address through a port. -/
def busWrite (m : Mem) (d : Dev) (p : Port) (w : Width) (a : Word) (v : Word) : Mem × Dev × Nat :=
  let d := accessCycle d (portNo p).val
  match xdataOf d w a with
  | some t => if isXdata t then (m, d, 0) else directWrite m d p .b32 t v
  | none => directWrite m d p w a v

end Sys2Proof.Machine
end

