-- ==== Sys2Proof/Machine/Ports.lean ====
section
/-! DEFINITION. The access ports: which accesses they serve (R331, R341, R386), register accesses of a port, MSP frames (R55 to R67), Shelf Link register and memory requests (R314, R315), and crossing CMD frames (R10). -/

namespace Sys2Proof.Machine

open Sys2Proof

/-! ### What is served -/

/-- Whether the fault-reporting core of the fatal state performs an access (R341). -/
def fatalServes (write : Bool) (a : Word) : Bool :=
  match locate a with
  | .reg k off al =>
    if write then (decide (off = FLT_STS) && decide (al = 0)) || (decide (k = bFOL) && decide (off ∈ [FOL_CTL, FOL_CUR, FOL_HCUR]))
    else decide (k = bDEV) || decide (k = bFOL) || fltOffsets.contains off
  | _ => false

/-- Whether recovery performs an access (R386): identity, status and Folio can be read. -/
def recoveryServes (write : Bool) (a : Word) : Bool :=
  match locate a with
  | .reg k _ _ => !write && decide (k ∈ [bDEV, bSEC, bFOL])
  | _ => false

/-- The Shelf Link status that turns an access away, if any (R315, R331, R341, R386). -/
def turnedAway (d : Dev) (write : Bool) (a : Word) : Option Nat :=
  if d.pwr.fatal.isSome then (if fatalServes write a then none else some 7)
  else if d.sl.restart then some 5
  else if inRecovery d then (if recoveryServes write a then none else some 5)
  else none

/-- Whether the ports answer at all: HD runs its supervisor or its fault-reporting core (R341, R403). -/
def portsUp (d : Dev) : Bool := !d.pwr.reset && (hostUp d || d.pwr.fatal.isSome || inRecovery d)

/-- Whether an access through a port other than Shelf Link is performed. -/
def portServes (d : Dev) (write : Bool) (a : Word) : Bool := portsUp d && (turnedAway d write a).isNone

/-! ### Register accesses of a port -/

/-- A write of an address through a port. -/
def portWrite (p : Port) (w : Width) (a v : Word) (m : Mem) (d : Dev) : Mem × Dev :=
  if portServes d true a then let x := busWrite m d p w a v; (x.1, x.2.1) else (m, d)

/-- A read of an address through a port: the word stays with the port. -/
def portRead (p : Port) (w : Width) (a : Word) (m : Mem) (d : Dev) : Mem × Dev :=
  if portServes d false a then
    let x := busRead m d p w a
    (m, modPt x.2.2 p fun s => { s with rdata := x.1 })
  else (m, d)

/-- A write of a register at its normal alias. -/
def regPut (p : Port) (k : Blk) (off : Nat) (v : Word) (m : Mem) (d : Dev) : Mem × Dev := portWrite p .b32 (regAddr k off) v m d

/-- A write of a register that is a given event only under a condition on the device; else the event does not occur. -/
def regPutIf (cond : Dev → Bool) (p : Port) (k : Blk) (off : Nat) (v : Word) (m : Mem) (d : Dev) : Mem × Dev :=
  if cond d then regPut p k off v m d else (m, d)

/-! ### MSP frames (R55 to R67) -/

/-- The device with the MSP changed. -/
def modMsp (d : Dev) (f : Msp → Msp) : Dev := { d with msp := f d.msp }

/-- Whether the MSP is in chain mode (MSP_CFG.MODE). -/
def mspChain (d : Dev) : Bool := flag d bMSP MSP_CFG 8

/-- MSP_CFG.WLEN. -/
def mspWlen (d : Dev) : Nat := fld d bMSP MSP_CFG 5 0

/-- Blocks in which an access at an address can set ACCERR. -/
def accBlks (d : Dev) (a : Word) : List Blk :=
  let of (x : Word) : List Blk :=
    match locate x with
    | .reg (.chan c) _ _ => [chBlk c, bankOf c .bk]
    | .reg k _ _ => [k]
    | .mem b _ _ => [.bank b .bk]
    | .none => []
  [bDEV, bMSP, bTB, bSEC] ++ of a ++ of (rd d bMSP MSP_XADDR)

/-- Whether any of the blocks shows ACCERR. -/
def anyAccErr (d : Dev) (l : List Blk) : Bool := l.any fun k => flag d k ACC_STS 0

/-- The device as it would be with ACCERR of the blocks cleared, to see whether an access sets one. -/
def noAccErr (d : Dev) (l : List Blk) : Dev := forEach l d fun d k => setFlag d k ACC_STS 0 false

/-- A read of an MSP frame: the word, whether it set ACCERR or was not served (R341), and the device. -/
def mspRead (m : Mem) (d : Dev) (a : Word) : Word × Bool × Dev :=
  if !portServes d false a then (0, true, d)
  else
    let l := accBlks d a
    let x := busRead m d .msp .b32 a
    (x.1, anyAccErr (busRead m (noAccErr d l) .msp .b32 a).2.2 l, x.2.2)

/-- A write of an MSP frame: whether it set ACCERR or was not served, the memory and the device. -/
def mspWrite (m : Mem) (d : Dev) (a v : Word) : Bool × Mem × Dev :=
  if !portServes d true a then (true, m, d)
  else
    let l := accBlks d a
    let x := busWrite m d .msp .b32 a v
    (anyAccErr (busWrite m (noAccErr d l) .msp .b32 a v).2.1 l, x.1, x.2.1)

/-- The address of an index of a page (R58). -/
def pageAddr (page : BitVec 24) (idx : Nat) : Word := BitVec.ofNat 32 (page.toNat * 256 + idx * 4)

/-- MSP_FSTAT and MSP_REJ_CNT at the end of a frame (R56), and the status byte of the frame before as MSP_DO shifted it out (R58). -/
def frameEnd (d : Dev) (st : Nat) : Dev :=
  let d := modMsp d fun s => { s with stat := (rd d bMSP MSP_FSTAT).truncate 8 }
  let d := wr d bMSP MSP_FSTAT (BitVec.ofNat 32 (0x80 ||| st))
  if st / 0x20 % 2 = 1 then bump d bMSP MSP_REJ_CNT else d

/-- Whether an address lies behind the barrier, so that its data can be late (R60). -/
def lateAddr (a : Word) : Bool := decide (0x01000000 ≤ a.toNat)

/-- Whether the data of an access can be late: the register it reaches, through MSP_XDATA too, lies behind the barrier (R60, R66). -/
def mayBeLate (d : Dev) (a : Word) : Bool := lateAddr ((xdataOf d .b32 a).getD a)

/-- The reads of a read frame (R59, R60, R62, R63), with what the words shifted out hold and the status bits gathered; bit k of `late`
says that the data of word k has not arrived in time. -/
def frameReads (late : Nat) (ai : Bool) (page : BitVec 24) : Nat → Nat → Mem → Dev → List Word → Nat → List Word × Nat × Dev
  | 0, _, _, d, ws, st => (ws, st, d)
  | n + 1, idx, m, d, ws, st =>
    let past := ai && decide (0x3E < idx) && decide (ws ≠ [])
    if past then frameReads late ai page n (idx + 1) m d (ws ++ [0]) (st ||| 0x10)
    else if idx = 0x3F then frameReads late ai page n (idx + 1) m d (ws ++ [BitVec.ofNat 32 d.msp.page.toNat]) st
    else
      let a := pageAddr page idx
      let x := mspRead m d a
      let lt := late.testBit ws.length && mayBeLate d a
      frameReads late ai page n (idx + 1) m x.2.2 (ws ++ [if lt then 0 else x.1]) (st ||| 8 * b2n x.2.1 ||| 4 * b2n lt)

/-- Words a frame shifts out whose value the spec leaves open: with AI = 0 every word after the first. -/
def openWords : Nat → Dev → List Word → List Word × Dev
  | 0, d, ws => (ws, d)
  | n + 1, d, ws => let x := fresh d; openWords n x.2 (ws ++ [BitVec.ofNat 32 (Config.free x.1)])

/-- An addressed-mode read frame with `nbits` data bits (R57 to R60, R62, R63). -/
def doReadFrame (cmd : Byte) (nbits late : Nat) (m : Mem) (d : Dev) : Mem × Dev :=
  if !portsUp d || d.sl.restart || mspChain d || !cmd.getLsbD 7 then (m, d) else
  let ai := cmd.getLsbD 6
  let n := if ai then 1 + (nbits + 31) / 32 else 1
  let rej := 0x20 * b2n (decide (nbits % mspWlen d ≠ 0))
  let x := frameReads late ai d.msp.page n (cmd.toNat % 64) m d [] rej
  let out := x.1.take (nbits / 32)
  let y := openWords (nbits / 32 - out.length) x.2.2 out
  (m, modMsp (frameEnd y.2 x.2.1) fun s => { s with dout := y.1 })

/-- The writes of a write frame, in order (R61 to R63). DESIGN CHOICE (log entry 96): with AI = 0 every data word is written, in order,
to the same index. -/
def frameWrites (ai : Bool) (page : BitVec 24) (first : Nat) : List Word → Nat → Mem → Dev → Nat → Nat × Mem × Dev
  | [], _, m, d, st => (st, m, d)
  | v :: r, idx, m, d, st =>
    if ai && decide (0x3E < idx) && decide (idx ≠ first) then frameWrites ai page first r (idx + 1) m d (st ||| 0x10)
    else if idx = 0x3F then frameWrites ai page first r (if ai then idx + 1 else idx) m (modMsp d fun s => { s with page := v.truncate 24 }) st
    else
      let x := mspWrite m d (pageAddr page idx) v
      frameWrites ai page first r (if ai then idx + 1 else idx) x.2.1 x.2.2 (st ||| 8 * b2n x.1)

/-- An addressed-mode write frame with whole data words and `extra` bits beyond them (R57, R61 to R63). MSP_DO shifts
out 0 after the status byte. -/
def doWriteFrame (cmd : Byte) (data : List Word) (extra : Nat) (m : Mem) (d : Dev) : Mem × Dev :=
  if !portsUp d || d.sl.restart || mspChain d || cmd.getLsbD 7 then (m, d) else
  let bad := decide ((32 * data.length + extra) % mspWlen d ≠ 0) || decide (extra % 32 ≠ 0)
  let zero (d : Dev) : Dev := modMsp d fun s => { s with dout := data.map fun _ => 0 }
  if bad then (m, zero (frameEnd d 0x20))
  else
    let x := frameWrites (cmd.getLsbD 6) d.msp.page (cmd.toNat % 64) data (cmd.toNat % 64) m d 0
    (x.2.1, zero (frameEnd x.2.2 x.1))

/-- A chain read (R65): the data returned, the status bits and the device. -/
def chainRead (late high : Bool) (idx : Fin 64) (m : Mem) (d : Dev) : Nat × Nat × Dev :=
  match d.msp.chainRd with
  | some (i, b) =>
    if high && decide (i = idx) then (b.toNat, 0, d) else chainLive
  | none => chainLive
where
  chainLive : Nat × Nat × Dev :=
    let a := pageAddr d.msp.page idx.val
    let x := if idx.val = 0x3F then (BitVec.ofNat 32 d.msp.page.toNat, false, d) else mspRead m d a
    let lt := late && mayBeLate d a && decide (idx.val ≠ 0x3F)
    let hi := bits x.1 31 24
    let d := if high then x.2.2 else modMsp x.2.2 fun s => { s with chainRd := some (idx, BitVec.ofNat 8 hi) }
    (if lt then 0 else if high then hi else bits x.1 23 0, 8 * b2n x.2.1 + 4 * b2n lt, d)

/-- A chain write (R65): the status bits, the memory and the device. DESIGN CHOICE (log entry 96): the staging is kept by the PART 1
access that uses it, as the read staging is. -/
def chainWrite (high : Bool) (idx : Fin 64) (data : BitVec 24) (m : Mem) (d : Dev) : Nat × Mem × Dev :=
  if !high then
    (0, m, modMsp d fun s => if idx.val = 0x3F then { s with page := data } else { s with chainWr := some (idx, data) })
  else match d.msp.chainWr with
    | some (i, w) =>
      if i = idx then
        let x := mspWrite m d (pageAddr d.msp.page idx.val) (BitVec.ofNat 32 (data.toNat % 256 * 0x1000000 + w.toNat))
        (8 * b2n x.1, x.2.1, x.2.2)
      else (8, m, accErr d .msp bMSP 0 1)
    | none => (8, m, accErr d .msp bMSP 0 1)

/-- The end of a chain-mode frame whose status bits and read data are known: the response word that the next frame loads (R66). -/
def chainEnd (d : Dev) (st data : Nat) : Dev :=
  modMsp (frameEnd d st) fun s => { s with resp := BitVec.ofNat 32 ((0x80 ||| st) % 256 * 0x1000000 + data % 0x1000000) }

/-- The bits that a chain stage of `w` bits which held `held` has shifted out when `nbits` bits `di` have been shifted in, first bit
highest, and the bits that it holds then (R64, R66, R67). -/
def stageShift (w held di nbits : Nat) : Nat × Nat :=
  let x := held % 2 ^ w * 2 ^ nbits + di % 2 ^ nbits
  (x / 2 ^ w, x % 2 ^ w)

/-- A chain-mode frame of `nbits` bits on MSP_DI, as a number with its first bit highest (R57, R64 to R67): the stage is loaded with the
response word, and the word it holds at the end is the command. DESIGN CHOICE (log entry 96): the response data after the no-operation
command is 0, as after a write. -/
def doChainFrame (di nbits : Nat) (late : Bool) (m : Mem) (d : Dev) : Mem × Dev :=
  if !portsUp d || d.sl.restart || !mspChain d then (m, d)
  else if mspWlen d ≠ 32 then
    let x := stageShift (mspWlen d) d.msp.pass di nbits
    (m, chainEnd (modMsp d fun s => { s with chain := x.1, pass := x.2 }) (2 + 0x20 * b2n (decide (nbits % mspWlen d ≠ 0))) 0)
  else
    let x := stageShift 32 d.msp.resp.toNat di nbits
    let d := modMsp d fun s => { s with chain := x.1 }
    if nbits % 32 ≠ 0 then (m, chainEnd d 0x20 0) else
    let stage : Word := BitVec.ofNat 32 x.2
    let idx : Fin 64 := ⟨bits stage 29 24 % 64, Nat.mod_lt _ (by decide)⟩
    if bits stage 31 24 = 0x7F then (m, chainEnd d 0 0)
    else if bit stage 31 then
      let x := chainRead late (bit stage 30) idx m d
      (m, chainEnd x.2.2 x.2.1 x.1)
    else
      let x := chainWrite (bit stage 30) idx (stage.truncate 24) m d
      (x.2.1, chainEnd x.2.2 x.1 0)

/-- A chain frame of one device that carries the given command byte and data. -/
def chainCmd (cmd : Nat) (data : BitVec 24) (m : Mem) (d : Dev) : Mem × Dev :=
  doChainFrame (cmd * 0x1000000 + data.toNat) 32 false m d

/-- A write to index 0x3F in the mode the MSP is in (R62, R65). -/
def pageWrite (v : Word) (m : Mem) (d : Dev) : Mem × Dev :=
  if mspChain d then chainCmd 0x3F (v.truncate 24) m d else doWriteFrame 0x3F [v] 0 m d

/-! ### Shelf Link requests (R312 to R315) -/

/-- The access port of a Shelf Link port (R314). -/
def portOf : Side → Port
  | .u => .slU
  | .d => .slD

/-- The response to a REG or MEM request of which nothing is performed: every word of its layout, 0 after the status (R314). -/
def refused (type st : Nat) : List Word := BitVec.ofNat 32 st :: (if type ≤ 3 then [0] else [])

/-- A request that has arrived and is for the device (R312): accepted and forwarded as R312 says, then performed with its response in
`cls`, or answered VERSION (R330). `quiet` for one that makes no response. -/
def slServe (q : Side) (f : SlFrame) (type : Nat) (cls : Fin 4) (quiet : Bool) (act : Mem → Dev → Mem × Dev × List Word)
    (m : Mem) (d : Dev) : Mem × Dev :=
  if !(decide (f.type.val = type) && !f.resp) then (m, d) else
  let a := slAccept d q f
  if !a.1 then (m, a.2) else
  let mine := slMine a.2 f
  let d := slForward a.2 q f
  if !mine then (m, d)
  else if f.vmaj.val ≠ 2 ∧ f.vmaj.val ≠ 3 then (m, slReply d q f cls (refused type 4))
  else
    let x := act m d
    (x.1, if quiet then x.2.1 else slReply x.2.1 q f cls x.2.2)

/-- A read of a request: the word and status, or the status that turns it away. -/
def slRead (p : Port) (m : Mem) (d : Dev) (a : Word) : Word × Nat × Dev :=
  match turnedAway d false a with
  | some s => (0, s, d)
  | none => busRead m d p .b32 a

/-- A write of a request: the status, or the status that turns it away. -/
def slWrite (p : Port) (m : Mem) (d : Dev) (a v : Word) : Mem × Dev × Nat :=
  match turnedAway d true a with
  | some s => (m, d, s)
  | none => busWrite m d p .b32 a v

/-- A word that holds a number. -/
def wordN (n : Nat) : Word := BitVec.ofNat 32 n

/-- REG_RD (R314). -/
def doRegRd (q : Side) (f : SlFrame) (m : Mem) (d : Dev) : Mem × Dev :=
  slServe q f 1 1 false (fun m d =>
    if f.payload.length < 1 then (m, d, refused 1 3) else
    let x := slRead (portOf q) m d (f.payload.getD 0 0)
    (m, x.2.2, [wordN x.2.1, x.1])) m d

/-- Word 1 of a REG_WR response: BK_SCH_RES after a BK_SCH_GO, else 0 (R314). -/
def schWord (p : Port) (d : Dev) (a : Word) : Word :=
  match locate a with
  | .reg (.bank b .bk) off _ => if off = BK_SCH_GO then rd d (.bank b .bk) (schOff p BK_SCH_RES) else 0
  | _ => 0

/-- REG_WR (R314); a broadcast makes no response (R312). -/
def doRegWr (q : Side) (f : SlFrame) (m : Mem) (d : Dev) : Mem × Dev :=
  slServe q f 2 1 (decide (f.dmode.val = 1)) (fun m d =>
    if f.payload.length < 2 then (m, d, refused 2 3) else
    let a := f.payload.getD 0 0
    let x := slWrite (portOf q) m d a (f.payload.getD 1 0)
    (x.1, x.2.1, if x.2.2 < 3 then [wordN x.2.2, schWord (portOf q) x.2.1 a] else refused 2 x.2.2)) m d

/-- The reads of a burst: it stops at the first access that does not give OK (R315). -/
def burstReads (p : Port) (m : Mem) : Nat → Word → Dev → List Word → Nat × List Word × Dev
  | 0, _, d, ws => (0, ws, d)
  | n + 1, a, d, ws =>
    let x := slRead p m d a
    if x.2.1 = 0 then burstReads p m n (a + 4) x.2.2 (ws ++ [x.1]) else (x.2.1, ws, x.2.2)

/-- The writes of a burst: it stops at the first access that does not give OK (R315). -/
def burstWrites (p : Port) : List Word → Word → Mem → Dev → Nat → Nat × Nat × Mem × Dev
  | [], _, m, d, n => (0, n, m, d)
  | v :: r, a, m, d, n =>
    let x := slWrite p m d a v
    if x.2.2 = 0 then burstWrites p r (a + 4) x.1 x.2.1 (n + 1) else (x.2.2, n, x.1, x.2.1)

/-- REG_BURST (R314, R315). -/
def doRegBurst (q : Side) (f : SlFrame) (m : Mem) (d : Dev) : Mem × Dev :=
  slServe q f 3 1 false (fun m d =>
    let a := f.payload.getD 0 0
    let w := f.payload.getD 1 0
    let n := bits w 8 0
    let data := (f.payload.drop 2).take n
    if f.payload.length < 2 ∨ n = 0 ∨ 256 < n ∨ (bit w 31 ∧ data.length < n) then (m, d, refused 3 3)
    else if bit w 31 then
      let x := burstWrites (portOf q) data a m d 0
      (x.2.2.1, x.2.2.2, [wordN x.1, wordN x.2.1])
    else
      let x := burstReads (portOf q) m n a d []
      (m, x.2.2, wordN x.1 :: wordN x.2.1.length :: x.2.1)) m d

/-- The addresses of a MEM request: its word count is 1 to 1,024 (R314). -/
def memAddrs (a : Word) (n : Nat) : List Word := (List.range n).map fun i => a + wordN (4 * i)

/-- The reads of a MEM_RD: every word, and UNMAPPED when some lie outside (R440). -/
def memReads (p : Port) (m : Mem) : List Word → Dev → List Word → Nat → List Word × Nat × Dev
  | [], d, ws, st => (ws, st, d)
  | a :: r, d, ws, st =>
    let x := busRead m d p .b32 a
    memReads p m r x.2.2 (ws ++ [x.1]) (max st x.2.1)

/-- The writes of a MEM_WR. -/
def memWrites (p : Port) : List Word → Word → Mem → Dev → Nat → Nat × Mem × Dev
  | [], _, m, d, st => (st, m, d)
  | v :: r, a, m, d, st =>
    let x := busWrite m d p .b32 a v
    memWrites p r (a + 4) x.1 x.2.1 (if st = 0 then x.2.2 else st)

/-- The status that turns a whole MEM request away, if any. -/
def memTurned (d : Dev) (write : Bool) (l : List Word) : Option Nat := l.findSome? fun a => turnedAway d write a

/-- MEM_RD (R314); its response has class 3. -/
def doMemRd (q : Side) (f : SlFrame) (m : Mem) (d : Dev) : Mem × Dev :=
  slServe q f 4 3 false (fun m d =>
    let n := (f.payload.getD 1 0).toNat
    if f.payload.length < 2 ∨ n = 0 ∨ 1024 < n then (m, d, [3]) else
    let l := memAddrs (f.payload.getD 0 0) n
    match memTurned d false l with
    | some s => (m, d, [wordN s])
    | none => let x := memReads (portOf q) m l d [] 0; (m, x.2.2, wordN x.2.1 :: x.1)) m d

/-- MEM_WR (R314); a broadcast makes no response (R312). -/
def doMemWr (q : Side) (f : SlFrame) (m : Mem) (d : Dev) : Mem × Dev :=
  slServe q f 5 1 (decide (f.dmode.val = 1)) (fun m d =>
    let n := (f.payload.getD 1 0).toNat
    let data := (f.payload.drop 2).take n
    if f.payload.length < 2 ∨ n = 0 ∨ 1024 < n ∨ data.length < n then (m, d, [3]) else
    match memTurned d true (memAddrs (f.payload.getD 0 0) n) with
    | some s => (m, d, [wordN s])
    | none => let x := memWrites (portOf q) data (f.payload.getD 0 0) m d 0; (x.2.1, x.2.2, [wordN x.1])) m d

end Sys2Proof.Machine
end

