-- ==== Sys2Proof/Machine/Frames.lean ====
section
/-! DEFINITION. Frames on lanes 1 to 3 of the isolation crossing: what each one does when it is delivered, and how the receiver delivers them once and in the order of their sequence numbers (R10 to R14). -/

namespace Sys2Proof.Machine

open Sys2Proof

/-- The type code of a frame (R11). -/
def xType : XBody → Nat
  | .cmd .. => 1
  | .rsp => 2
  | .recd => 3
  | .strm _ => 4
  | .flt | .fatalFlt => 7
  | .boot .. => 8
  | .hb => 9

/-- A CMD frame: FD performs the bank register or memory access that it carries (R10). The address must lie behind the barrier. -/
def cmdArrive (p : Port) (write : Bool) (addr v : Word) (m : Mem) (d : Dev) : Mem × Dev :=
  if !lateAddr addr || !d.pwr.fup then (m, d)
  else if write then let x := busWrite m d p .b32 addr v; (x.1, x.2.1)
  else let x := busRead m d p .b32 addr; (m, modPt x.2.2 p fun s => { s with rdata := x.1 })

/-- What a frame does when it is delivered. An RSP frame completes the access whose effect FD has performed (R10). -/
def deliver (toHost : Bool) (b : XBody) (m : Mem) (d : Dev) : Mem × Dev :=
  match b with
  | .cmd p w a v => cmdArrive p w a v m d
  | .rsp => (m, d)
  | .recd => (m, recArrive d)
  | .strm ws => (m, strmArrive ws d)
  | .flt => (m, fltArrive d)
  | .fatalFlt => (m, if d.pwr.fup then fieldFatal d else d)
  | .boot ws last => (m, bootArrive ws last d)
  | .hb => (m, if toHost then hbHD d else hbField d)

/-- The held frame of a direction whose number is next. -/
def xHeld (d : Dev) (h : XHead) : Option (XHead × Option XBody) :=
  d.xc.early.find? fun e => e.1.toHost == h.toHost && e.1.seq == xSeq d h

/-- Held frames of a direction are delivered while one of them is next (R11, R14). -/
def xDrain (h : XHead) : Nat → Mem → Dev → Mem × Dev
  | 0, m, d => (m, d)
  | n + 1, m, d =>
    match xHeld d h with
    | none => (m, d)
    | some e =>
      let d := xSeqPut (modXc d fun k => { k with early := k.early.erase e }) e.1
      match e.2 with
      | some b => let x := deliver h.toHost b m d; xDrain h n x.1 x.2
      | none => xDrain h n m d

/-- The number of a frame has passed: what follows it is delivered, or the number is kept until it is next. -/
def xPassed (h : XHead) (m : Mem) (d : Dev) : Mem × Dev :=
  if seqBehind h.seq (xSeq d h) then (m, d)
  else if h.seq = xSeq d h then let d := xSeqPut d h; xDrain h d.xc.early.length m d
  else (m, modXc d fun k => { k with early := k.early ++ [(h, none)] })

/-- An early frame is held unless it is held already. -/
def xHold (h : XHead) (b : XBody) (d : Dev) : Dev :=
  let d := xGoodNote d h
  if d.xc.early.any fun e => e.1.toHost == h.toHost && e.1.seq == h.seq then d
  else modXc d fun k => { k with early := k.early ++ [(h, some b)] }

/-- A frame arrives on one of lanes 1 to 3 (R11 to R14). A frame of a retried type is delivered in its turn, once, and with it the held
ones that follow; one that is not retried acts when it arrives, and its number passes, whether its check was good or not. -/
def xArrive (h : XHead) (b : XBody) (toHost : Bool) (m : Mem) (d : Dev) : Mem × Dev :=
  match xFate d h (xType b) toHost with
  | .taken =>
    let d := xGoodNote d h
    if xRetried (xType b) then
      let x := deliver toHost b m (xSeqPut d h)
      xDrain h x.2.xc.early.length x.1 x.2
    else let x := deliver toHost b m d; xPassed h x.1 x.2
  | .early => (m, xHold h b d)
  | .bad => if xRetried (xType b) then (m, xBad d h) else xPassed h m (xBad d h)
  | f => (m, xRefused d h f)

end Sys2Proof.Machine
end

