-- ==== Sys2Proof/Machine/Lift.lean ====
section
/-! DEFINITION. How a command's effect becomes its outcome, and the conditions and operands that commands of several families share. -/

namespace Sys2Proof.Machine

open Sys2Proof

/-- The outcome of a command. -/
abbrev Answer := Host.Outcome State Fault Refusal

/-- A command that acts on the device alone. -/
def ofDev (f : Dev → Dev) (s : State) : Answer := .next { s with dev := f s.dev }

/-- A command that acts on the device and reads the bank memories. -/
def ofMem (f : Mem → Dev → Dev) (s : State) : Answer := .next { s with dev := f s.mem s.dev }

/-- A command that acts on the device and on the bank memories. -/
def ofBoth (f : Mem → Dev → Mem × Dev) (s : State) : Answer :=
  .next { s with dev := (f s.mem s.dev).2, mem := (f s.mem s.dev).1 }

/-- A field-side event at instant `t` that acts on the bank memories too. -/
def atFieldBoth (t : TS) (f : Mem → Dev → Mem × Dev) (m : Mem) (d : Dev) : Mem × Dev :=
  if d.pwr.fup && canBe (fieldNow d) t then f m (fieldAt d t) else (m, d)

/-- A host-side event at instant `t` that acts on the bank memories too. -/
def atHostBoth (t : TS) (f : Mem → Dev → Mem × Dev) (m : Mem) (d : Dev) : Mem × Dev :=
  if canBe d.tb.now t then f m (advance d t) else (m, d)

/-- An event at instant `t` of the field clock that acts on the bank memories too, whether or not the field side is up. -/
def atFieldAnyBoth (t : TS) (f : Mem → Dev → Mem × Dev) (m : Mem) (d : Dev) : Mem × Dev :=
  if canBe (fieldNow d) t then f m (fieldAt d t) else (m, d)

/-! ### Which access a command names -/

/-- An address of a set, clear or toggle alias (R37). -/
def isAlias (a : Word) : Bool := match locate a with | .reg _ _ al => decide (al ≠ 0) | _ => false

/-- The address of an UNLOCK register (R48). -/
def isUnlock (a : Word) : Bool := match locate a with | .reg _ off _ => decide (off = UNLOCK_OFF) | _ => false

/-- The row of the register at an address, and its normal offset. -/
def rowAt (a : Word) : Option (RegDef × Nat) :=
  match locate a with
  | .reg k off _ => (regAt k off).map fun x => (x.1, off)
  | _ => none

/-- The address of a status register (R54). -/
def isStatus (a : Word) : Bool := match rowAt a with | some (r, _) => decide (r.ra ≠ 0) | none => false

/-- The address of the low word of a 64-bit value (R43, R44): of a register pair, or of a program word (R198). -/
def isLow64 (a : Word) : Bool :=
  match locate a with
  | .mem _ 0 o => decide (o % 8 = 0)
  | _ => match rowAt a with | some (r, _) => r.lo64 | none => false

/-- The address of word 3 of a TDC queue window (R164). -/
def isQueuePop (a : Word) : Bool :=
  match locate a with
  | .reg (.host .tb) off _ => decide (0x100 ≤ off ∧ off < 0x180 ∧ off % 0x20 = 0x1C)
  | .reg (.bank _ .tdc) off _ => decide (0x100 ≤ off ∧ off < 0x280 ∧ off % 0x10 = 0xC)
  | _ => false

/-- A write at an address of a given kind; at another the command does not occur. -/
def portWriteIf (is_ : Word → Bool) (p : Port) (w : Width) (a v : Word) (m : Mem) (d : Dev) : Mem × Dev :=
  if is_ a then portWrite p w a v m d else (m, d)

/-- A read at an address of a given kind; at another the command does not occur. -/
def portReadIf (is_ : Word → Bool) (p : Port) (a : Word) (m : Mem) (d : Dev) : Mem × Dev :=
  if is_ a then portRead p .b32 a m d else (m, d)

/-- An access to an address in no block and no window (R42). -/
def unmapped (p : Port) (a : Word) (write : Bool) (v : Word) (m : Mem) (d : Dev) : Mem × Dev :=
  if locate a = .none then (if write then portWrite p .b32 a v m d else portRead p .b32 a m d) else (m, d)

/-- An access to MSP_XDATA (R62). -/
def xdataAccess (p : Port) (write : Bool) (v : Word) (m : Mem) (d : Dev) : Mem × Dev :=
  if write then regPut p bMSP MSP_XDATA v m d else portRead p .b32 (regAddr bMSP MSP_XDATA) m d

/-- A write of 1 to BK_SCH_GO while the command that the port has staged has a given KIND (R224). -/
def submit (p : Port) (b : Bank) (kind : Nat) (m : Mem) (d : Dev) : Mem × Dev :=
  regPutIf (fun d => decide (bits (schReg d p b BK_SCH_CMD) 3 0 = kind)) p (.bank b .bk) BK_SCH_GO 1 m d

/-- The enable bit of a Shelf Link port in SL_CTL. -/
def sideBit : Side → Word
  | .u => 1
  | .d => 2

/-- TS_WRAP: in the last timing-clock period, time passes to the wrap (R140). -/
def doTsWrap (d : Dev) : Dev := if d.tb.now.toNat / 256 = 2 ^ 56 - 1 then advance d 0 else d

/-- On an empty queue one CK_TIME period passes: host and field TS advance, slews proceed, and the comparators that continuous operation
has powered for long enough become valid (R138, R151, R295). -/
def idle (d : Dev) : Dev := forEach allChans (advance d (tsAdd d.tb.now 160)) cmpValidate

end Sys2Proof.Machine
end

