-- ==== Sys2Proof/Machine/CmdAutis.lean ====
section
/-! DEFINITION. Commands of the Autis machines: one for each instruction, and the events that waits and barriers end with (R169 to R222). -/

namespace Sys2Proof.Machine

open Sys2Proof

/-- NOP (R179): Does nothing for one slot. -/
def execNop (c : Chan) (s : State) : Answer := ofMem (fun m d => doNop m c d) s

/-- JMP (R179): Jumps to the target. -/
def execJmp (c : Chan) (s : State) : Answer := ofMem (fun m d => doJmp m c d) s

/-- JCC (R179): Jumps when the condition holds, cancelling provisional successors when taken before the deadline. -/
def execJcc (c : Chan) (s : State) : Answer := ofMem (fun m d => doJcc m c d) s

/-- BEV (R179): Jumps on a pending or level condition and clears it when pending. -/
def execBev (c : Chan) (s : State) : Answer := ofMem (fun m d => doBev m c d) s

/-- CALL (R179): Pushes the return offset and jumps. -/
def execCall (c : Chan) (s : State) : Answer := ofMem (fun m d => doCall m c d) s

/-- RET (R179): Pops the call stack and jumps. -/
def execRet (c : Chan) (s : State) : Answer := ofMem (fun m d => doRet m c d) s

/-- LOOP (R179): Pushes a loop entry or jumps to the exit for a count of 0. -/
def execLoop (c : Chan) (s : State) : Answer := ofMem (fun m d => doLoop m c d) s

/-- ENDL (R179): Decrements the top loop count and jumps back or pops. -/
def execEndl (c : Chan) (s : State) : Answer := ofMem (fun m d => doEndl m c d) s

/-- WAITL (R179): Waits until a target line time. -/
def execWaitl (c : Chan) (s : State) : Answer := ofMem (fun m d => doWaitl m c d) s

/-- WAITT (R179): Waits until a target timestamp. -/
def execWaitt (c : Chan) (s : State) : Answer := ofMem (fun m d => doWaitt m c d) s

/-- WAIT_TARGET_REACHED (R179): The waiting machine resumes at the first modulator sample boundary at or after its target. -/
def execWaitTargetReached (c : Chan) (t : TS) (s : State) : Answer := ofDev (fun d => atField d t (doWaitTarget c)) s

/-- SYNCG (R180): Waits at a group barrier with a channel mask and timeout. -/
def execSyncg (c : Chan) (s : State) : Answer := ofMem (fun m d => doSyncg m c d) s

/-- SYNCG_RELEASE (R180): The barrier releases when all named machines wait, or fails when one stops. -/
def execSyncgRelease (c : Chan) (t : TS) (s : State) : Answer := ofDev (fun d => atField d t (doSyncRelease c)) s

/-- SYNCG_TIMEOUT (R180): A waiting machine's timeout runs out and the barrier fails for all. -/
def execSyncgTimeout (c : Chan) (t : TS) (s : State) : Answer := ofDev (fun d => atField d t (doSyncTimeout c)) s

/-- HALT (R179): Stops the machine in HALT with a halt code. -/
def execHalt (c : Chan) (s : State) : Answer := ofMem (fun m d => doHalt m c d) s

/-- MOV (R181): Copies a register or live operand. -/
def execMov (c : Chan) (s : State) : Answer := ofMem (fun m d => doMov m c d) s

/-- LDI (R181): Loads an immediate. -/
def execLdi (c : Chan) (s : State) : Answer := ofMem (fun m d => doLdi m c d) s

/-- ADD (R181): Adds two values. -/
def execAdd (c : Chan) (s : State) : Answer := ofMem (fun m d => doAdd m c d) s

/-- SUB (R181): Subtracts two values. -/
def execSub (c : Chan) (s : State) : Answer := ofMem (fun m d => doSub m c d) s

/-- MUL (R181): Multiplies two values. -/
def execMul (c : Chan) (s : State) : Answer := ofMem (fun m d => doMul m c d) s

/-- MULQ (R183): Forms a rounded, saturated fixed-point product. -/
def execMulq (c : Chan) (s : State) : Answer := ofMem (fun m d => doMulq m c d) s

/-- CMP (R181): Sets flags from A minus B. -/
def execCmp (c : Chan) (s : State) : Answer := ofMem (fun m d => doCmp m c d) s

/-- MIN (R181): Takes the signed minimum. -/
def execMin (c : Chan) (s : State) : Answer := ofMem (fun m d => doMin m c d) s

/-- MAX (R181): Takes the signed maximum. -/
def execMax (c : Chan) (s : State) : Answer := ofMem (fun m d => doMax m c d) s

/-- ABS (R181): Takes the saturated absolute value. -/
def execAbs (c : Chan) (s : State) : Answer := ofMem (fun m d => doAbs m c d) s

/-- AND (R181): Bitwise AND. -/
def execAnd (c : Chan) (s : State) : Answer := ofMem (fun m d => doAnd m c d) s

/-- OR (R181): Bitwise OR. -/
def execOr (c : Chan) (s : State) : Answer := ofMem (fun m d => doOr m c d) s

/-- XOR (R181): Bitwise XOR. -/
def execXor (c : Chan) (s : State) : Answer := ofMem (fun m d => doXor m c d) s

/-- SHL (R181): Shifts left. -/
def execShl (c : Chan) (s : State) : Answer := ofMem (fun m d => doShl m c d) s

/-- SHR (R181): Shifts right, logical or arithmetic. -/
def execShr (c : Chan) (s : State) : Answer := ofMem (fun m d => doShr m c d) s

/-- FORCE (R184): Requests a step in CC, CV, CP, CR or OPEN mode. -/
def execForce (c : Chan) (s : State) : Answer := ofMem (fun m d => doForce m c d) s

/-- RAMP (R203): Requests a step whose setpoint moves linearly to a target. -/
def execRamp (c : Chan) (s : State) : Answer := ofMem (fun m d => doRamp m c d) s

/-- HOLD (R204): Requests a step with the previous step's mode and setpoint. -/
def execHold (c : Chan) (s : State) : Answer := ofMem (fun m d => doHold m c d) s

/-- REST (R204): Requests an OPEN step during which the bank may rest. -/
def execRest (c : Chan) (s : State) : Answer := ofMem (fun m d => doRest m c d) s

/-- LIMIT (R184): Sets one limit of the set-up. -/
def execLimit (c : Chan) (s : State) : Answer := ofMem (fun m d => doLimit m c d) s

/-- UNTIL (R185): Adds one end condition to the set-up. -/
def execUntilCond (c : Chan) (s : State) : Answer := ofMem (fun m d => doUntil m c d) s

/-- LEDGER (R184): Declares the power and deferral limit of the next step. -/
def execLedger (c : Chan) (s : State) : Answer := ofMem (fun m d => doLedger m c d) s

/-- PLAY (R187): Starts a waveform-follow step or queues a segment as successor. -/
def execPlay (c : Chan) (s : State) : Answer := ofMem (fun m d => doPlay m c d) s

/-- STREAM (R187): Starts or queues play from the stream FIFO. -/
def execStream (c : Chan) (s : State) : Answer := ofMem (fun m d => doStream m c d) s

/-- QUEUE_ROOM (R187): A PLAY or STREAM waiting for room queues its item when the playing item ends. -/
def execQueueRoom (c : Chan) (s : State) : Answer := ofMem (fun m d => doQueueRoom m c d) s

/-- SEGM (R222): Attaches a marker to the next item that starts. -/
def execSegm (c : Chan) (s : State) : Answer := ofMem (fun m d => doSegm m c d) s

/-- MEAS (R188): Starts a line-cycle integration of V, I, Q or E. -/
def execMeas (c : Chan) (s : State) : Answer := ofMem (fun m d => doMeas m c d) s

/-- MEAS_DONE (R188): After n line cycles the mean or change is written and the machine resumes. -/
def execMeasDone (c : Chan) (t : TS) (s : State) : Answer := ofDev (fun d => atField d t (doMeasDone c)) s

/-- SNAP (R188): Waits for the next settled filtered output. -/
def execSnap (c : Chan) (s : State) : Answer := ofMem (fun m d => doSnap m c d) s

/-- SNAP_DONE (R188): The first settled output after issue is written to the pair. -/
def execSnapDone (c : Chan) (s : State) : Answer := ofDev (doSnapDone c) s

/-- ARM (R231): Arms the channel's capture with counts and group and clears TRG. -/
def execArm (c : Chan) (s : State) : Answer := ofMem (fun m d => doArm m c d) s

/-- ARM_INSTANT (R231): At the arm instant the capture becomes PRIMED or ARMED and starts recording. -/
def execArmInstant (c : Chan) (t : TS) (s : State) : Answer := ofDev (fun d => atField d t (doArmInstant c)) s

/-- TRIGC (R235): Sets or disables one trigger slot. -/
def execTrigc (c : Chan) (s : State) : Answer := ofMem (fun m d => doTrigc m c d) s

/-- MOULD (R247): Binds or unbinds a Mould for the channel's steps. -/
def execMould (c : Chan) (s : State) : Answer := ofMem (fun m d => doMould m c d) s

/-- EIS (R252): Requests an impedance step on a profile. -/
def execEis (c : Chan) (s : State) : Answer := ofMem (fun m d => doEis m c d) s

/-- PULSE (R263): Requests a pulse-resistance step. -/
def execPulse (c : Chan) (s : State) : Answer := ofMem (fun m d => doPulse m c d) s

/-- SIG (R221): Schedules a trigger or marker output. -/
def execSig (c : Chan) (s : State) : Answer := ofMem (fun m d => doSig m c d) s

/-- SIG_EMIT (R221): At the next control sample boundary or item start the output is emitted. -/
def execSigEmit (c : Chan) (t : TS) (s : State) : Answer := ofDev (fun d => atField d t (doSigEmit c)) s

/-- POST (R188): Makes a POST record. -/
def execPost (c : Chan) (s : State) : Answer := ofMem (fun m d => doPost m c d) s

/-- SEAL (R392): Closes the open Colophon, queues it for signing and opens a new one. -/
def execSealColophon (c : Chan) (s : State) : Answer := ofMem (fun m d => doSeal m c d) s

/-- SEAL_SPOOL_SPACE (R23): A SEAL waiting for spool space completes when space is free. -/
def execSealSpoolSpace (c : Chan) (s : State) : Answer := ofMem (fun m d => doSealSpace m c d) s

/-- FAULT (R188): Raises a machine fault with cause USER. -/
def execFault (c : Chan) (s : State) : Answer := ofMem (fun m d => doFaultInstr m c d) s

/-- RESERVED_OP (R173): The machine issues an instruction word whose OP is reserved, which is a machine fault with cause ILLEGAL. -/
def execReservedOp (c : Chan) (s : State) : Answer := ofMem (fun m d => doReservedOp m c d) s

end Sys2Proof.Machine
end

