-- ==== Sys2Proof/Machine/CmdCapture.lean ====
section
/-! DEFINITION. Commands of captures, Moulds, and impedance and pulse profiles (R227 to R269). -/

namespace Sys2Proof.Machine

open Sys2Proof

/-- CAPTURE_OUTPUT (R230): The capture decimator completes an output that is stored and tested against triggers and Moulds. -/
def execCaptureOutput (c : Chan) (t : TS) (s : State) : Answer := ofBoth (atFieldBoth t (doCaptureOutput c)) s

/-- CAPTURE_FIRE (R237): Met trigger conditions fire the capture once, making it FILLING and TRG pending. -/
def execCaptureFire (c : Chan) (t : TS) (s : State) : Answer := ofDev (fun d => atField d t (doCaptureFire c)) s

/-- SETTLE_WINDOW_CLOSE (R239): A group capture's settle window closes. -/
def execSettleWindowClose (c : Chan) (t : TS) (s : State) : Answer := ofDev (fun d => atField d t (doSettleClose c)) s

/-- CAPTURE_END (R234): A capture ends DONE or CANCEL and makes its capture record. -/
def execCaptureEnd (c : Chan) (t : TS) (s : State) : Answer := ofDev (fun d => atField d t (doCaptureEnd c)) s

/-- DISARM (R233): CAP_CCMDc CMD 1 ends an armed capture with CANCEL. -/
def execDisarm (p : Port) (c : Chan) (s : State) : Answer := ofBoth (regPut p (bankOf c .cap) (CAP_CCMD + 0x20 * c.inBank) 1) s

/-- HOST_FIRE (R241): CAP_CCMDc CMD 2 fires an ARMED capture with primary cause host FIRE. -/
def execHostFire (p : Port) (c : Chan) (s : State) : Answer := ofBoth (regPut p (bankOf c .cap) (CAP_CCMD + 0x20 * c.inBank) 2) s

/-- CAP_ALLOC_WRITE (R228): A CAP_CALLOCc write assigns pages or is refused with ALLOCREF. -/
def execCapAllocWrite (p : Port) (c : Chan) (v : Word) (s : State) : Answer := ofBoth (regPut p (bankOf c .cap) (CAP_CALLOC + 0x20 * c.inBank) v) s

/-- MOULD_ENABLE (R244): A write setting MLD_CFGm.EN enables the Mould or is refused with BADMLD. -/
def execMouldEnable (p : Port) (b : Bank) (m : Fin 16) (v : Word) (s : State) : Answer :=
  ofBoth (regPutIf (fun _ => bit v 31) p (.bank b .mld) (MLD_CFG + 4 * m.val) v) s

/-- MOULD_VIOLATION (R248): A violation takes effect at its decision and applies ABORT_SAFE, ENDSTEP or BRANCH. -/
def execMouldViolation (c : Chan) (t : TS) (s : State) : Answer := ofDev (fun d => atField d t (doMouldViolation c)) s

/-- EIS_PROFILE_ENABLE (R251): A write setting EIS_PpCFG0.EN enables the profile or sets BADPRF. -/
def execEisProfileEnable (p : Port) (b : Bank) (k : Fin 16) (v : Word) (s : State) : Answer :=
  ofBoth (regPutIf (fun _ => bit v 31) p (.bank b .eis) (EIS_CFG0 + 0x80 * k.val) v) s

/-- PULSE_PROFILE_ENABLE (R261): A write setting PLS_PqCFG.EN enables the profile or sets PBADPRF. -/
def execPulseProfileEnable (p : Port) (b : Bank) (k : Fin 16) (v : Word) (s : State) : Answer :=
  ofBoth (regPutIf (fun _ => bit v 31) p (.bank b .eis) (PLS_CFG + 0x20 * k.val) v) s

/-- EIS_RESULTS_READY (R254): After the measurement window the impedances are computed and the impedance records made. -/
def execEisResultsReady (c : Chan) (t : TS) (s : State) : Answer := ofDev (fun d => atField d t (doEisReady c)) s

end Sys2Proof.Machine
end

