-- ==== Sys2Proof/Machine/CmdCross.lean ====
section
/-! DEFINITION. Commands of the isolation crossing: frames, heartbeats, lanes and holdover (R10 to R24, R33, R158). -/

namespace Sys2Proof.Machine

open Sys2Proof

/-- RSP_FRAME (R10): HD receives an RSP frame and completes the host's access. -/
def execRspFrame (h : XHead) (s : State) : Answer := ofBoth (xArrive h .rsp true) s

/-- REC_FRAME (R22): HD receives a record or Colophon body from the spool and passes it on. -/
def execRecFrame (h : XHead) (s : State) : Answer := ofBoth (xArrive h .recd true) s

/-- TIME_FRAME_SEND (R158): HD sends a TIME frame on lane 0 every 2^14 timing-clock periods. -/
def execTimeFrameSend (t : TS) (s : State) : Answer := ofDev (fun d => atHost d t doTimeSend) s

/-- TIME_FRAME (R158): The field side receives a TIME frame, echoes it, takes line announcements and slews its time by the measured offset. -/
def execTimeFrame (h : XHead) (t2 : TS) (s : State) : Answer := ofDev (fun d => atFieldAny d t2 (doTimeFrame h)) s

/-- TIME_ECHO (R158): HD receives the field echo of a TIME frame and computes the crossing latency into XC_LAT. -/
def execTimeEcho (h : XHead) (t3 : TS) (t4 : TS) (s : State) : Answer := ofDev (fun d => atHost d t4 (doTimeEcho h t3)) s

/-- TRIG_FRAME (R15): A side acts on the first copy of a TRIG frame that passes its check and discards the second. -/
def execTrigFrame (h : XHead) (h2 : XHead) (m : TrigMsg) (s : State) : Answer := ofDev (doTrigFrame h h2 m) s

/-- FLT_FRAME (R338): HD receives an FLT frame and updates its mirror of the field block's fault registers. -/
def execFltFrame (h : XHead) (s : State) : Answer := ofBoth (xArrive h .flt true) s

/-- FATAL_FLT_FRAME (R340): The field side receives an FLT frame of a fatal code and enters its safe state within 10 µs. -/
def execFatalFltFrame (h : XHead) (s : State) : Answer := ofBoth (xArrive h .fatalFlt false) s

/-- BOOT_FRAME (R16): The field side in its boot state receives image frames, checks the digest and starts the image or reports a boot failure. -/
def execBootFrame (h : XHead) (words : List Word) (last : Bool) (s : State) : Answer := ofBoth (xArrive h (.boot words last) false) s

/-- HB_SEND (R17): HD sends an HB frame every 250 µs. -/
def execHbSend (s : State) : Answer := ofDev doHbSend s

/-- HB_FRAME (R19): A valid HB frame from HD restarts the field autonomy timer, applies a pending XC_AUTO and is answered with the spool level. -/
def execHbFrame (h : XHead) (t : TS) (s : State) : Answer :=
  ofBoth (fun m d => if h.toHost then atHostBoth t (xArrive h .hb true) m d else atFieldAnyBoth t (xArrive h .hb false) m d) s

/-- XC_AUTO_WRITE (R20): A guarded write to XC_AUTO sets the autonomy window, which takes effect at the next valid HB frame. -/
def execXcAutoWrite (p : Port) (v : Word) (s : State) : Answer := ofBoth (regPut p bXC XC_AUTO v) s

/-- LANE_DOWN (R14): After the 15th failed resend on a lane the sender takes it out of use as a contained crossing fault. -/
def execLaneDown (toHost : Bool) (lane : Fin 4) (s : State) : Answer := ofDev (doLaneDown toHost lane) s

/-- LANE0 (R14): Lane 0 of a direction is lost after 16 TIME periods without a good frame or 1 ms without relock, a fatal fault. -/
def execLane0 (toHost : Bool) (s : State) : Answer := ofDev (doLane0 toHost) s

/-- AUTONOMY_EXPIRY (R18): On expiry of the autonomy timer the field side drives every channel safe, ends steps with HOSTLOSS and sets AUTOEXP. -/
def execAutonomyExpiry (t : TS) (s : State) : Answer := ofDev (fun d => atField d t doAutoExpiry) s

/-- FIELDLOSS (R21): When HD receives no field HB for 1 ms it sets FIELDLOSS, reports a contained fault and retrains the lanes. -/
def execFieldloss (t : TS) (s : State) : Answer := ofDev (fun d => atHost d t doFieldLoss) s

/-- XLOSS (R21): When the lanes do not work 1 s after the field autonomy timer would have expired, HD declares a fatal crossing loss. -/
def execXloss (t : TS) (s : State) : Answer := ofDev (fun d => atHost d t doXloss) s

/-- CROSSING_RESTORED (R24): When the crossing works again the field side sends held causes and all spooled records in order. -/
def execCrossingRestored (s : State) : Answer := ofDev doRestored s

/-- CK_XF_LOSS (R33): On loss of CK_XF the field PLL enters holdover within 1 µs and sets XC_STS.HOLDOVER. -/
def execCkXfLoss (s : State) : Answer := ofDev doXfLoss s

/-- CK_XF_RETURN (R33): When CK_XF returns the field PLL relocks and slews field time back to host time. -/
def execCkXfReturn (s : State) : Answer := ofDev doXfReturn s

/-- HEARTBEAT_GAP (R17): When no valid HB frame from HD has arrived for 500 µs, the field side raises XC_STS.AUTON, and after four heartbeat periods it sets HBLATE. -/
def execHeartbeatGap (t : TS) (s : State) : Answer := ofDev (fun d => atField d t doHbGap) s

end Sys2Proof.Machine
end

