-- ==== Sys2Proof/Machine/CmdFault.lean ====
section
/-! DEFINITION. Commands of faults and the Folio (R333 to R353). -/

namespace Sys2Proof.Machine

open Sys2Proof

/-- FAULT_CAUSE (R336): A fault cause latches, counts and raises interrupts and messages. -/
def execFaultCause (cause : CauseIn) (s : State) : Answer := ofDev (fun d => Sys2Proof.Machine.faultCause d cause) s

/-- FATAL_ENTRY (R340): HD latches the fatal state and stops. -/
def execFatalEntry (code : FatalCode) (p0 : Word) (p1 : Word) (s : State) : Answer := ofDev (doFatal code p0 p1) s

/-- FREEZE (R352): A write of FOL_CTL.FREEZE = 1 freezes the Folio. -/
def execFreeze (p : Port) (v : Word) (s : State) : Answer := ofBoth (regPutIf (fun _ => bit v 0) p bFOL FOL_CTL v) s

/-- THAW (R352): A write of FREEZE = 0 thaws the Folio with a GAP record. -/
def execThaw (p : Port) (v : Word) (s : State) : Answer := ofBoth (regPutIf (fun _ => !bit v 0) p bFOL FOL_CTL v) s

/-- FREEZE_TIMEOUT (R352): After 1 s the freeze ends and FRZTO is set. -/
def execFreezeTimeout (t : TS) (s : State) : Answer := ofDev (fun d => atHost d t doFreezeTimeout) s

/-- CLRRING (R353): A stored 1 in CLRRING empties the ring. -/
def execClrring (p : Port) (v : Word) (s : State) : Answer := ofBoth (regPutIf (fun _ => bit v 8) p bFOL FOL_CTL v) s

/-- CLRHIST (R353): A stored 1 in CLRHIST clears histograms. -/
def execClrhist (p : Port) (v : Word) (s : State) : Answer := ofBoth (regPutIf (fun _ => bit v 9) p bFOL FOL_CTL v) s

/-- FOLIO_WINDOW_READ (R351): A read of FOL_WIN7 with AUTOINC advances FOL_CUR. -/
def execFolioWindowRead (p : Port) (s : State) : Answer := ofBoth (portRead p .b32 (regAddr bFOL (FOL_WIN + 0x1C))) s

/-- FOLIO_SOURCE_ENABLE (R350): A write setting FOL_SRCn.EN configures a source area. -/
def execFolioSourceEnable (p : Port) (n : Fin 64) (v : Word) (s : State) : Answer :=
  ofBoth (regPutIf (fun _ => bit v 31) p bFOL (FOL_SRC + 4 * n.val) v) s

end Sys2Proof.Machine
end

