-- ==== Sys2Proof/Machine/CmdForce.lean ====
section
/-! DEFINITION. Commands of the force path: enables, PWM, loops, groups and banks (R69 to R102). -/

namespace Sys2Proof.Machine

open Sys2Proof

/-- CH_ENABLE (R100): A write setting CH_CTRL.EN is refused with ENCAUSE or takes the channel from its safe state into OPEN. -/
def execChEnable (p : Port) (c : Chan) (v : Word) (s : State) : Answer := ofBoth (regPutIf (fun _ => bit v 0) p (chBlk c) CH_CTRL v) s

/-- CH_DISABLE (R101): A write clearing CH_CTRL.EN drives the channel to its safe state and ends its step with DISABLED. -/
def execChDisable (p : Port) (c : Chan) (v : Word) (s : State) : Answer := ofBoth (regPutIf (fun _ => !bit v 0) p (chBlk c) CH_CTRL v) s

/-- PWM_BOUNDARY (R72): At a PWM period boundary the channel applies the newest duty, dead times and period and places the period's edges. -/
def execPwmBoundary (c : Chan) (t : TS) (s : State) : Answer := ofDev (fun d => atField d t (doPwmBoundary c)) s

/-- SWT_EDGE (R75): A transition on SWT is time-stamped by the channel TDC and used by the dead-time tracker. -/
def execSwtEdge (c : Chan) (rising : Bool) (hit : Hit) (s : State) : Answer := ofDev (fun d => atField d hit.t (doSwtEdge c rising hit.t hit.tap)) s

/-- SWTLOSS (R79): After 16 periods without an SWT transition the channel sets SWTLOSS and holds the dead times at DTMAX. -/
def execSwtloss (c : Chan) (s : State) : Answer := ofDev (doSwtLoss c) s

/-- SWTDEAD (R79): After 256 periods without an SWT transition the channel has a contained fault and goes safe. -/
def execSwtdead (c : Chan) (s : State) : Answer := ofDev (doSwtDead c) s

/-- LOOP_SAMPLE (R89): At its loop slot the channel's fast pair samples V and I and the loop engine computes the new demand. -/
def execLoopSample (c : Chan) (t : TS) (fv : BitVec 16) (fi : BitVec 16) (s : State) : Answer := ofDev (fun d => atField d t (doLoopSample c fv fi)) s

/-- LOOP_TICK (R91): 480 ns after its sample the update hands its duty to the PWM slice or puts its DAC code on DRA. -/
def execLoopTick (c : Chan) (t : TS) (s : State) : Answer := ofDev (fun d => atField d t (doLoopTick c)) s

/-- VWINDOW (R87): After 10 consecutive updates outside the voltage window plus guard the step ends with VWINDOW. -/
def execVwindow (c : Chan) (s : State) : Answer := ofDev (doVwindow c) s

/-- DRA_LIMIT (R83): The DRA current limit starts to act and sets CH_STS.SCLIM. -/
def execDraLimit (c : Chan) (t : TS) (s : State) : Answer := ofDev (fun d => atField d t (doDraLimit c)) s

/-- SCLIM (R83): When the DRA limit has acted for 100 µs the channel has a contained fault and goes safe. -/
def execSclim (c : Chan) (t : TS) (s : State) : Answer := ofDev (fun d => atField d t (doSclim c)) s

/-- GROUP_FORM (R93): A write of N = 2–8 to LOOP_GRPc.N forms a locked group or is refused with GRPREF. -/
def execGroupForm (p : Port) (c : Chan) (v : Word) (s : State) : Answer :=
  ofBoth (regPutIf (fun _ => decide (2 ≤ bits v 3 0 ∧ bits v 3 0 ≤ 8)) p (bankOf c .loop) (grpOff c) v) s

/-- GROUP_DISSOLVE (R93): A write of 0 or 1 to LOOP_GRPc.N dissolves the group that channel c leads. -/
def execGroupDissolve (p : Port) (c : Chan) (v : Word) (s : State) : Answer :=
  ofBoth (regPutIf (fun _ => decide (bits v 3 0 ≤ 1)) p (bankOf c .loop) (grpOff c) v) s

/-- SHARE (R96): When a member's current leaves the sharing tolerance for 1 ms the group has a contained fault. -/
def execShare (c : Chan) (member : Fin 24) (t : TS) (s : State) : Answer := ofDev (fun d => atField d t (doShare c member)) s

/-- BANK_ENABLE (R97): A write setting LOOP_CTL.BKEN raises BKn_EN when all its conditions hold, or is ignored under the interlock or shutdown. -/
def execBankEnable (p : Port) (b : Bank) (s : State) : Answer := ofBoth (regPut p (.bank b .loop) LOOP_CTL 1) s

/-- BANK_DISABLE (R101): A write clearing LOOP_CTL.BKEN drives the bank's channels safe and lowers BKn_EN. -/
def execBankDisable (p : Port) (b : Bank) (s : State) : Answer := ofBoth (regPut p (.bank b .loop) LOOP_CTL 0) s

/-- ENDLY_EXPIRY (R98): When the start delay after BKn_EN rises ends, the bank's channels may drive. -/
def execEndlyExpiry (b : Bank) (t : TS) (s : State) : Answer := ofDev (fun d => atField d t (doEndlyExpiry b)) s

/-- BANKFLT (R99): When BKn_FLT has been high for DEGL + 1 periods the bank goes safe, BKn_EN falls and BKEN is cleared. -/
def execBankflt (b : Bank) (high : HighRun) (s : State) : Answer := ofDev (fun d => atField d high.t (doBankFlt b high.since)) s

/-- BKN_FLT_LOW (R99): The first period that samples BKn_FLT low returns FLTIN to 0. -/
def execBknFltLow (b : Bank) (t : TS) (s : State) : Answer := ofDev (fun d => atField d t (doBankFltLow b)) s

/-- FAST_TRIM (R106): Every 100 ms the fast pair is trimmed against the precision value at a loop-slot boundary. -/
def execFastTrim (c : Chan) (t : TS) (s : State) : Answer := ofDev (fun d => atField d t (doFastTrim c)) s

end Sys2Proof.Machine
end

