-- ==== Sys2Proof/Machine/CmdLedger.lean ====
section
/-! DEFINITION. Commands of the power ledger, resting banks and comparators (R270 to R304). -/

namespace Sys2Proof.Machine

open Sys2Proof

/-- LEDGERTO (R276): A request not admitted by its deferral limit leaves the queue with TERM LEDGERTO. -/
def execLedgerto (c : Chan) (t : TS) (s : State) : Answer := ofDev (fun d => atField d t (doLedgerto c)) s

/-- LEDGER_ENABLE (R277): A write of LED_CTL.EN takes effect at the next line-cycle boundary. -/
def execLedgerEnable (p : Port) (v : Word) (s : State) : Answer := ofBoth (regPut p bLED LED_CTL v) s

/-- LEDGER_RECORD (R279): After N cycles the device makes a ledger record. -/
def execLedgerRecord (t : TS) (s : State) : Answer := ofDev (fun d => atField d t doLedgerRecord) s

/-- LEDOVER (R280): A run outside the limits reaching its third cycle sets OVER and may freeze admissions. -/
def execLedover (t : TS) (s : State) : Answer := ofDev (fun d => atField d t doLedover) s

/-- POWER_STATE_ENTRY (R282): At a line-cycle boundary a resting bank enters its chosen power state. -/
def execPowerStateEntry (b : Bank) (t : TS) (s : State) : Answer := ofDev (fun d => atField d t (doPowerEntry b)) s

/-- PLANNED_WAKE (R284): A resume time before a planned event the bank begins to wake. -/
def execPlannedWake (b : Bank) (t : TS) (s : State) : Answer := ofMem (fun m d => atField d t (doPlannedWake m b)) s

/-- WAKE (R285): A wake cause starts the bank's return to L0. -/
def execWake (b : Bank) (t : TS) (s : State) : Answer := ofDev (fun d => atField d t (doWake b)) s

/-- RESUME_COMPLETE (R285): After the resume time the bank is in L0 and the rotation resumes. -/
def execResumeComplete (b : Bank) (t : TS) (s : State) : Answer := ofDev (fun d => atField d t (doResume b)) s

/-- OCV_READ (R286): Every 10 s in L3 the bank reads open-circuit voltage. -/
def execOcvRead (b : Bank) (t : TS) (vs : List Int) (s : State) : Answer := ofDev (fun d => atField d t (doOcvRead b vs)) s

/-- COMPARATOR_TRANSITION (R296): A comparator output changes, latching its transition bit and timestamp. -/
def execComparatorTransition (c : Chan) (k : Comparator) (out : Bool) (t : TS) (s : State) : Answer :=
  ofDev (fun d => atField d t (doCmpTransition c k out)) s

/-- SAMPLED_DECISION (R293): In sampled operation comparators decide 2 µs after a CK_TICK. -/
def execSampledDecision (c : Chan) (ov : Bool) (uv : Bool) (oc : Bool) (rp : Bool) (t : TS) (s : State) : Answer :=
  ofDev (fun d => atField d t (doSampled c ov uv oc rp)) s

/-- INTERLOCK (R300): FILK_N asserts and the whole device goes safe with TERM INTERLOCK. -/
def execInterlock (t : TS) (s : State) : Answer := ofDev (fun d => atFieldAny d t doInterlock) s

/-- FILK_RELEASE (R302): FILK_N rises and FSAFE_N may be released. -/
def execFilkRelease (t : TS) (s : State) : Answer := ofDev (fun d => atFieldAny d t doFilkRelease) s

/-- SELF_CHECK (R304): A CMP_SCHK write starts a self-check of masked channels. -/
def execSelfCheck (p : Port) (b : Bank) (mask : BitVec 24) (s : State) : Answer := ofBoth (regPut p (bCMP b) CMP_SCHK (mask.zeroExtend 32)) s

/-- SELF_CHECK_DONE (R304): The self-check phases complete and failures are reported. -/
def execSelfCheckDone (b : Bank) (t : TS) (fails : List ScFail) (s : State) : Answer := ofDev (fun d => atField d t (doSelfCheckDone b fails)) s

end Sys2Proof.Machine
end

