-- ==== Sys2Proof/Machine/CmdLink.lean ====
section
/-! DEFINITION. Commands of Shelf Link: requests, forwarding, acknowledgement, triggers, training and discovery (R305 to R332). -/

namespace Sys2Proof.Machine

open Sys2Proof

/-- REG_RD (R314): A REG_RD request reads a register. -/
def execRegRd (q : Side) (f : SlFrame) (s : State) : Answer := ofBoth (doRegRd q f) s

/-- REG_WR (R314): A REG_WR request writes a register. -/
def execRegWr (q : Side) (f : SlFrame) (s : State) : Answer := ofBoth (doRegWr q f) s

/-- REG_BURST (R314): A REG_BURST performs consecutive accesses. -/
def execRegBurst (q : Side) (f : SlFrame) (s : State) : Answer := ofBoth (doRegBurst q f) s

/-- MEM_RD (R314): A MEM_RD reads memory words. -/
def execMemRd (q : Side) (f : SlFrame) (s : State) : Answer := ofBoth (doMemRd q f) s

/-- MEM_WR (R314): A MEM_WR writes memory words. -/
def execMemWr (q : Side) (f : SlFrame) (s : State) : Answer := ofBoth (doMemWr q f) s

/-- SL_FRAME_FORWARD (R312): A frame not for the device is forwarded out of the other port. -/
def execSlFrameForward (q : Side) (f : SlFrame) (s : State) : Answer := ofDev (doFrameForward q f) s

/-- ACK (R310): An ACK releases acknowledged frames from the replay buffer. -/
def execAck (q : Side) (lseq : Fin 4096) (s : State) : Answer := ofDev (doAck q lseq) s

/-- NAK (R310): A NAK makes the sender resend from LSEQ. -/
def execNak (q : Side) (lseq : Fin 4096) (s : State) : Answer := ofDev (doNak q lseq) s

/-- REPLAY_TIMEOUT (R310): After 20 µs without ACK the port resends. -/
def execReplayTimeout (q : Side) (t : TS) (s : State) : Answer := ofDev (fun d => atHost d t (doReplayTimeout q)) s

/-- TRIG_FIRE (R239): A received TRIG FIRE is forwarded and taken by group captures. -/
def execTrigFire (q : Side) (m : TrigMsg) (s : State) : Answer := ofDev (doTrig 0 q m) s

/-- TRIG_ARM (R238): A received TRIG ARM arms primed group captures. -/
def execTrigArm (q : Side) (m : TrigMsg) (s : State) : Answer := ofDev (doTrig 1 q m) s

/-- TRIG_PULSE (R318): A TRIG PULSE pulses mapped GT lines. -/
def execTrigPulse (q : Side) (m : TrigMsg) (s : State) : Answer := ofDev (doTrig 2 q m) s

/-- TRIG_HIGH (R318): A TRIG HIGH holds mapped GT lines high. -/
def execTrigHigh (q : Side) (m : TrigMsg) (s : State) : Answer := ofDev (doTrig 3 q m) s

/-- TRIG_LOW (R318): A TRIG LOW releases mapped GT lines. -/
def execTrigLow (q : Side) (m : TrigMsg) (s : State) : Answer := ofDev (doTrig 4 q m) s

/-- LINK_TRAINED (R330): A port achieves lock and the device announces itself. -/
def execLinkTrained (q : Side) (n : Neighbour) (s : State) : Answer := ofDev (doLinkTrained q n) s

/-- DISC_ANNOUNCE_REPEAT (R323): Every 100 ms an unassigned device repeats its ANNOUNCE. -/
def execDiscAnnounceRepeat (t : TS) (s : State) : Answer := ofDev (fun d => atHost d t doAnnounceRepeat) s

/-- DISC_ANNOUNCE (R324): A ring head assigns an address for a received ANNOUNCE. -/
def execDiscAnnounce (f : SlFrame) (s : State) : Answer := ofDev (doDiscAnnounce f) s

/-- DISC_ASSIGN (R323): A device loads its address and SPLIT. -/
def execDiscAssign (f : SlFrame) (s : State) : Answer := ofDev (doDiscAssign f) s

/-- SL_RING_WRITE (R324): A write of SL_RING lets the head assign held announcements. -/
def execSlRingWrite (p : Port) (v : Word) (s : State) : Answer := ofBoth (regPut p bSL SL_RING v) s

/-- PORT_LOSS (R325): A port losing lock for 2 µs is lost and TOPO LOSS sent. -/
def execPortLoss (q : Side) (t : TS) (s : State) : Answer := ofDev (fun d => atHost d t (doPortLoss q)) s

/-- TOPO_LOSS (R326): A TOPO LOSS on the egress port switches egress. -/
def execTopoLoss (q : Side) (f : SlFrame) (s : State) : Answer := ofDev (doTopoLoss q f) s

/-- TOPO_RESTORE (R327): A TOPO RESTORE returns the egress port. -/
def execTopoRestore (q : Side) (f : SlFrame) (s : State) : Answer := ofDev (doTopoRestore q f) s

/-- PORT_DOWN (R325): A write of 0 to SL_CTL.UEN or DEN takes a port down. -/
def execPortDown (p : Port) (q : Side) (s : State) : Answer := ofBoth (portWrite p .b32 (regAddr bSL (SL_CTL + 0x8000)) (sideBit q)) s

/-- PORT_UP (R327): A write of 1 to SL_CTL.UEN or DEN enables a port. -/
def execPortUp (p : Port) (q : Side) (s : State) : Answer := ofBoth (portWrite p .b32 (regAddr bSL (SL_CTL + 0x4000)) (sideBit q)) s

end Sys2Proof.Machine
end

