-- ==== Sys2Proof/Machine/CmdMeasure.lean ====
section
/-! DEFINITION. Commands of the measurement path: samples, filters, integrators, aux slots, rotation and periodic records (R103 to R137). -/

namespace Sys2Proof.Machine

open Sys2Proof

/-- MOD_SAMPLE (R113): At each modulator sample boundary the calibrated V and I samples enter the filters and the coulomb and energy integrators. -/
def execModSample (c : Chan) (t : TS) (v : Int) (i : Int) (fv : BitVec 16) (s : State) : Answer :=
  ofMem (fun m d => atField d t (doModSample m c v i fv)) s

/-- FILTER_OUTPUT (R107): At an output boundary the decimation filter completes a V and I output, and a settled one enters CH_PV and CH_PI. -/
def execFilterOutput (c : Chan) (t : TS) (s : State) : Answer := ofDev (fun d => atField d t (doFilterOutput c)) s

/-- LINE_INTEGRATION_END (R110): At a line-cycle boundary the line-cycle integrator completes the mean of its interval. -/
def execLineIntegrationEnd (c : Chan) (t : TS) (s : State) : Answer := ofDev (fun d => atField d t (doLineEnd c)) s

/-- QECLR (R115): A write of 1 to CH_MCTL.QECLR requests clearing of both integrators at the next modulator sample boundary. -/
def execQeclr (p : Port) (c : Chan) (s : State) : Answer := ofBoth (regPut p (chBlk c) CH_MCTL 1) s

/-- QECLR_APPLY (R116): At the clear boundary both integrators go to 0 and every reference value kept against them is adjusted. -/
def execQeclrApply (c : Chan) (t : TS) (s : State) : Answer := ofDev (fun d => atField d t (doQeApply c)) s

/-- AUX_SLOT_START (R118): An aux slot starts and the fast V converter stands in for the precision V converter. -/
def execAuxSlotStart (c : Chan) (t : TS) (s : State) : Answer := ofDev (fun d => atField d t (doAuxSlot c)) s

/-- AUX_RESULT (R120): At the end of an aux slot the aux result is computed into CH_T and its age restarts. -/
def execAuxResult (c : Chan) (t : TS) (x : Nat) (s : State) : Answer := ofMem (fun m d => atField d t (doAuxResult m c x)) s

/-- RSV_TURN_START (R121): The reserve pair connects to the next channel's inputs and a turn starts. -/
def execRsvTurnStart (b : Bank) (t : TS) (s : State) : Answer := ofDev (fun d => atField d t (doTurnStart b)) s

/-- RSV_SHADOW_START (R121): 100 ms into a turn the reserve pair is settled and the shadow comparison starts. -/
def execRsvShadowStart (b : Bank) (t : TS) (s : State) : Answer := ofDev (fun d => atField d t (doShadowStart b)) s

/-- HANDOVER (R122): At the shadow end the reserve pair takes over the channel at one modulator sample boundary. -/
def execHandover (b : Bank) (t : TS) (dv : Int) (di : Int) (s : State) : Answer := ofDev (fun d => atField d t (doHandover b dv di)) s

/-- RSV_TURN_SKIP (R123): A handover deferred for 60 s skips the turn, sets SKIP and counts it. -/
def execRsvTurnSkip (b : Bank) (t : TS) (s : State) : Answer := ofDev (fun d => atField d t (doTurnSkip b)) s

/-- RSV_CAL_PHASE (R121): A calibration phase of the channel pair (offset, gain or CALREF) ends after 4 s. -/
def execRsvCalPhase (b : Bank) (t : TS) (accept : Bool) (check : CrossRead) (s : State) : Answer :=
  ofDev (fun d => atField d t (doCalPhase b accept check.v check.i)) s

/-- RSV_RECONNECT (R121): The channel pair reconnects with its new coefficients and the return shadow starts. -/
def execRsvReconnect (b : Bank) (t : TS) (s : State) : Answer := ofDev (fun d => atField d t (doReconnect b)) s

/-- HANDBACK (R122): At the return shadow end the channel pair serves again from one modulator sample boundary. -/
def execHandback (b : Bank) (t : TS) (dv : Int) (di : Int) (s : State) : Answer := ofDev (fun d => atField d t (doHandback b dv di)) s

/-- RSV_SELF_CAL (R128): The reserve pair calibrates itself; a failure stops the rotation as a contained fault. -/
def execRsvSelfCal (b : Bank) (t : TS) (failV : Bool) (failI : Bool) (s : State) : Answer := ofDev (fun d => atField d t (doSelfCal b failV failI)) s

/-- RSV_TURN_END (R121): 20 s after its start the turn ends and the next channel's turn begins. -/
def execRsvTurnEnd (b : Bank) (t : TS) (s : State) : Answer := ofDev (fun d => atField d t (doTurnEnd b)) s

/-- PERIODIC_RECORD (R129): At a record boundary the channel makes a periodic measurement record into the spool. -/
def execPeriodicRecord (c : Chan) (t : TS) (s : State) : Answer := ofDev (fun d => atField d t (doPeriodicRecord c)) s

end Sys2Proof.Machine
end

