-- ==== Sys2Proof/Machine/CmdPort.lean ====
section
/-! DEFINITION. Commands of the access ports: register accesses, MSP frames and crossing CMD frames (R6 to R67). -/

namespace Sys2Proof.Machine

open Sys2Proof

/-- REG_WRITE (R6): A write through the normal alias to a register that has no row of its own stores or ignores each field according to its access code. -/
def execRegWrite (p : Port) (addr : Word) (width : Width) (v : Word) (s : State) : Answer := ofBoth (portWrite p width addr v) s

/-- ALIAS_WRITE (R37): A write through the set, clear or toggle alias performs an indivisible read-modify-write on each field by its access code. -/
def execAliasWrite (p : Port) (addr : Word) (width : Width) (v : Word) (s : State) : Answer :=
  ofBoth (portWriteIf (fun a => isAlias a) p width addr v) s

/-- UNLOCK (R48): A write to a block's UNLOCK register opens its lock with the key, or arms it with any other value. -/
def execUnlock (p : Port) (addr : Word) (v : Word) (s : State) : Answer := ofBoth (portWriteIf isUnlock p .b32 addr v) s

/-- ACCESSION_WRITE_BACK (R54): A write of the read accession number to a status register clears its RA bits when the number matches and the register has been read. -/
def execAccessionWriteBack (p : Port) (addr : Word) (v : Word) (s : State) : Answer := ofBoth (portWriteIf isStatus p .b32 addr v) s

/-- LOW_WORD_READ (R43): A read of the low word of a 64-bit value loads the port's read shadow with the high word. -/
def execLowWordRead (p : Port) (addr : Word) (s : State) : Answer := ofBoth (portReadIf isLow64 p addr) s

/-- LOW_WORD_WRITE (R44): A write to the low word of a 64-bit value is held in the port's write shadow until the high-word write. -/
def execLowWordWrite (p : Port) (addr : Word) (v : Word) (s : State) : Answer := ofBoth (portWriteIf isLow64 p .b32 addr v) s

/-- UNMAPPED_ACCESS (R42): An access to an address in no block or window reads 0, does nothing and sets ACCERR of the DEV block. -/
def execUnmappedAccess (p : Port) (addr : Word) (write : Bool) (v : Word) (s : State) : Answer := ofBoth (unmapped p addr write v) s

/-- MSP_READ_FRAME (R59): An addressed-mode read frame shifts out the previous status byte and one or more register words, with reads performed at the edges given. -/
def execMspReadFrame (cmd : Byte) (nbits : Nat) (late : Nat) (s : State) : Answer := ofBoth (doReadFrame cmd nbits late) s

/-- MSP_WRITE_FRAME (R61): An addressed-mode write frame performs its held writes in order when MSP_SEL_N rises. -/
def execMspWriteFrame (cmd : Byte) (data : List Word) (extra : Nat) (s : State) : Answer := ofBoth (doWriteFrame cmd data extra) s

/-- MSP_CHAIN_FRAME (R66): At the end of a chain-mode frame each device performs the command in its stage and loads its response at the next frame start. -/
def execMspChainFrame (di : Nat) (nbits : Nat) (late : Bool) (s : State) : Answer := ofBoth (doChainFrame di nbits late) s

/-- CHAIN_WRITE_LOW (R65): A chain write with PART 0 stages 24 data bits, or writes MSP_PAGE at index 0x3F. -/
def execChainWriteLow (idx : Fin 64) (data : BitVec 24) (s : State) : Answer := ofBoth (chainCmd idx.val data) s

/-- CHAIN_WRITE_HIGH (R65): A chain write with PART 1 writes the register from the staging and its high byte, or sets ACCERR when the tag does not match. -/
def execChainWriteHigh (idx : Fin 64) (data : BitVec 24) (s : State) : Answer := ofBoth (chainCmd (0x40 + idx.val) data) s

/-- CHAIN_READ_LOW (R65): A chain read with PART 0 reads the register, returns bits [23:0] and stages the high byte. -/
def execChainReadLow (idx : Fin 64) (s : State) : Answer := ofBoth (chainCmd (0x80 + idx.val) 0) s

/-- CHAIN_READ_HIGH (R65): A chain read with PART 1 returns the staged or live high byte. -/
def execChainReadHigh (idx : Fin 64) (s : State) : Answer := ofBoth (chainCmd (0xC0 + idx.val) 0) s

/-- CHAIN_NOP (R65): Command byte 0x7F in a chain stage performs no operation. -/
def execChainNop (s : State) : Answer := ofBoth (chainCmd 0x7F 0) s

/-- MSP_PAGE_WRITE (R62): A write to index 0x3F sets MSP_PAGE when the frame's writes are performed. -/
def execMspPageWrite (v : Word) (s : State) : Answer := ofBoth (pageWrite v) s

/-- MSP_CFG_WRITE (R56): A write to MSP_CFG sets mode and word length from the next frame, keeping WLEN on an out-of-range value. -/
def execMspCfgWrite (p : Port) (v : Word) (s : State) : Answer := ofBoth (regPut p bMSP MSP_CFG v) s

/-- MSP_XDATA_ACCESS (R62): A read or write of MSP_XDATA reads or writes the register addressed by MSP_XADDR. -/
def execMspXdataAccess (p : Port) (write : Bool) (v : Word) (s : State) : Answer := ofBoth (xdataAccess p write v) s

/-- CMD_FRAME (R10): FD receives a CMD frame and performs the bank register or memory access, in order per port. -/
def execCmdFrame (h : XHead) (p : Port) (write : Bool) (addr : Word) (v : Word) (s : State) : Answer :=
  ofBoth (xArrive h (.cmd p write addr v) false) s

end Sys2Proof.Machine
end

