-- ==== Sys2Proof/Machine/CmdSecurity.lean ====
section
/-! DEFINITION. Commands of firmware slots, attestation and Colophons (R381 to R396), and of the switch of host firmware (R332). -/

namespace Sys2Proof.Machine

open Sys2Proof

/-- ERASE (R387): IMG OP 0 erases a slot. -/
def execErase (q : Side) (f : SlFrame) (s : State) : Answer := ofDev (doErase q f) s

/-- CHUNK (R387): IMG OP 1 writes words into a slot. -/
def execChunk (q : Side) (f : SlFrame) (s : State) : Answer := ofDev (doChunk q f) s

/-- VERIFY (R385): IMG OP 2 verifies an image slot. -/
def execVerify (q : Side) (f : SlFrame) (s : State) : Answer := ofDev (doVerify q f) s

/-- SWITCH (R389): IMG OP 3 or SEC_SWCMD GO switches to a slot. -/
def execSwitch (q : Side) (f : SlFrame) (s : State) : Answer := ofBoth (doSwitch q f) s

/-- HOST_RESTART_DONE (R332): After a host switch the supervisor runs and sends TOPO REJOIN. -/
def execHostRestartDone (verified : Bool) (s : State) : Answer := ofDev (doHostRestart verified) s

/-- ARB_COMMIT (R388): A write of SEC_ARBCMT.COMMIT raises the anti-rollback counter. -/
def execArbCommit (p : Port) (v : Word) (s : State) : Answer := ofBoth (regPutIf (fun _ => bit v 0) p bSEC SEC_ARBCMT v) s

/-- ATTEST (R390): An ATTEST request asks for a signed report. -/
def execAttest (q : Side) (f : SlFrame) (s : State) : Answer := ofDev (doAttest q f) s

/-- ATTEST_REPORT (R390): The signed attestation report is sent. -/
def execAttestReport (s : State) : Answer := ofMem doAttestReport s

/-- COLOPHON_SIGNED (R395): A Colophon is signed and sent as a COLO message. -/
def execColophonSigned (s : State) : Answer := ofDev doColoSigned s

/-- COLOPHON_RESEND (R396): An unacknowledged Colophon is resent after 1 s. -/
def execColophonResend (seq : Word) (t : TS) (s : State) : Answer := ofDev (fun d => atHost d t (doColoResend seq)) s

/-- SEC_CACK (R396): A write of SEC_CACK releases a Colophon. -/
def execSecCack (p : Port) (seq : Word) (s : State) : Answer := ofBoth (regPut p bSEC SEC_CACK seq) s

/-- VERIFY_DONE (R387): Up to 200 ms after a VERIFY request, the image checks complete, the slot becomes VERIFIED or FAILED and the response is sent. -/
def execVerifyDone (slot : Fin 4) (s : State) : Answer := ofDev (doVerifyDone slot) s

end Sys2Proof.Machine
end

