-- ==== Sys2Proof/Machine/CmdStartup.lean ====
section
/-! DEFINITION. Commands of power-up, resets and field reboots (R399 to R408). -/

namespace Sys2Proof.Machine

open Sys2Proof

/-- HOST_START (R403): At start instant P the host side boots and latches straps. -/
def execHostStart (role : Fin 4) (bootsel : Bool) (s : State) : Answer := ofBoth (doHostStart role bootsel) s

/-- RESET_ASSERT (R407): RESET_N low resets the device. -/
def execResetAssert (longEnough : Bool) (s : State) : Answer := ofBoth (doResetAssert longEnough) s

/-- HOST_RAIL_LOSS (R401): A host rail falling holds HD in reset. -/
def execHostRailLoss (s : State) : Answer := ofDev doHostRailLoss s

/-- FIELD_POR_RELEASE (R400): The field side enters its boot state. -/
def execFieldPorRelease (s : State) : Answer := ofBoth doFieldPor s

/-- FIELD_RAIL_LOSS (R406): A field rail falling resets the field side. -/
def execFieldRailLoss (s : State) : Answer := ofBoth doFieldRailLoss s

/-- FIELD_UP (R403): The field side comes up. -/
def execFieldUp (t : TS) (s : State) : Answer := ofDev (fun d => atHost d t doFieldUp) s

/-- FREBOOT (R408): A write of DEV_CTL.FREBOOT reboots the field side. -/
def execFreboot (p : Port) (v : Word) (s : State) : Answer := ofBoth (regPutIf (fun _ => bit v 0) p bDEV DEV_CTL v) s

end Sys2Proof.Machine
end

