-- ==== Sys2Proof/Machine/CmdStep.lean ====
section
/-! DEFINITION. Commands of steps, machines, the program store, waveforms, streams and the schedule (R176, R189 to R226, R444). -/

namespace Sys2Proof.Machine

open Sys2Proof

/-- STEP_START (R189): At the start boundary the step copies the set-up, advances the step counter and starts driving. -/
def execStepStart (c : Chan) (t : TS) (s : State) : Answer := ofDev (fun d => atField d t (doStepStart c)) s

/-- CONTROL_SAMPLE_BOUNDARY (R178): A snapshot of conditions is taken and the step's end conditions are evaluated. -/
def execControlSampleBoundary (c : Chan) (t : TS) (s : State) : Answer := ofDev (fun d => atField d t (doControl c)) s

/-- STEP_END (R190): A step ends at a boundary with its TERM and the machine resumes with the channel in OPEN. -/
def execStepEnd (c : Chan) (t : TS) (s : State) : Answer := ofDev (fun d => atField d t (doStepEnd c)) s

/-- START (R199): CH_ACTL CMD 1 accepts or refuses a START with SCAUSE. -/
def execStart (p : Port) (c : Chan) (v : Word) (s : State) : Answer := ofBoth (regPutIf (fun _ => decide (bits v 3 0 = 1)) p (chBlk c) CH_ACTL v) s

/-- START_EFFECT (R199): An accepted START sets up the machine and opens a Colophon after the next modulator sample boundary. -/
def execStartEffect (c : Chan) (s : State) : Answer := ofMem (fun m d => doStartEffect m c d) s

/-- STOP (R200): CH_ACTL CMD 2 halts the machine and aborts its step. -/
def execStop (p : Port) (c : Chan) (s : State) : Answer := ofBoth (regPut p (chBlk c) CH_ACTL 2) s

/-- ABORT (R200): CH_ACTL CMD 3 ends the running step with ABORT. -/
def execAbort (p : Port) (c : Chan) (s : State) : Answer := ofBoth (regPut p (chBlk c) CH_ACTL 3) s

/-- CLEAR (R200): CH_ACTL CMD 4 returns a stopped machine to IDLE. -/
def execClear (p : Port) (c : Chan) (s : State) : Answer := ofBoth (regPut p (chBlk c) CH_ACTL 4) s

/-- NUDGE (R176): A write of CH_AEV.SET makes EVn pending. -/
def execNudge (p : Port) (c : Chan) (ev : Byte) (s : State) : Answer := ofBoth (regPut p (chBlk c) CH_AEV (ev.zeroExtend 32)) s

/-- COMMIT (R198): BK_PCTL CMD 1 starts committing an image slot. -/
def execCommit (p : Port) (b : Bank) (v : Word) (s : State) : Answer :=
  ofBoth (regPutIf (fun _ => decide (bits v 1 0 = 1)) p (.bank b .bk) BK_PCTL v) s

/-- COMMIT_DONE (R198): The commit checks complete and BK_PSTS reports the result. -/
def execCommitDone (b : Bank) (s : State) : Answer := ofMem (fun m d => doCommitDone m b d) s

/-- RELEASE (R198): BK_PCTL CMD 2 invalidates a slot or refuses with INUSE or EMPTY. -/
def execRelease (p : Port) (b : Bank) (v : Word) (s : State) : Answer :=
  ofBoth (regPutIf (fun _ => decide (bits v 1 0 = 2)) p (.bank b .bk) BK_PCTL v) s

/-- PROGRAM_WORD_WRITE (R198): A high-word write stores a 64-bit program word unless it lies in a committed image. -/
def execProgramWordWrite (p : Port) (b : Bank) (i : Fin 65536) (hi : Word) (s : State) : Answer :=
  ofBoth (portWrite p .b32 (BitVec.ofNat 32 (bankMem b + 8 * i.val + 4)) hi) s

/-- TIMER_TICK (R212): At a waveform timer tick the next sample plays, and an item may end and its successor start. -/
def execTimerTick (b : Bank) (tm : Fin 16) (t : TS) (s : State) : Answer := ofMem (fun m d => atField d t (doTimerTick m b tm.val)) s

/-- SUCCESSOR_DEADLINE (R219): 1.2 µs after a tick the provisional successor becomes final and a pending marker binds. -/
def execSuccessorDeadline (c : Chan) (t : TS) (s : State) : Answer := ofDev (fun d => atField d t (doSuccessorDeadline c)) s

/-- STRM (R215): A STRM message is accepted into the stream FIFO or discarded with its cause. -/
def execStrm (h : XHead) (payload : List Word) (s : State) : Answer :=
  ofBoth (fun m d => if h.len.val = payload.length then xArrive h (.strm payload) false m d else (m, d)) s

/-- STREAM_RESET (R214): A write of CH_SCTL.RESET zeroes the stream indices and empties the FIFO. -/
def execStreamReset (p : Port) (c : Chan) (v : Word) (s : State) : Answer := ofBoth (regPutIf (fun _ => bit v 1) p (chBlk c) CH_SCTL v) s

/-- SUBMIT_START (R224): BK_SCH_GO with KIND 1 decides admission of a scheduled START. -/
def execSubmitStart (p : Port) (b : Bank) (s : State) : Answer := ofBoth (submit p b 1) s

/-- SUBMIT_STOP (R224): BK_SCH_GO with KIND 2 decides admission of a scheduled STOP. -/
def execSubmitStop (p : Port) (b : Bank) (s : State) : Answer := ofBoth (submit p b 2) s

/-- SUBMIT_ABORT (R224): BK_SCH_GO with KIND 3 decides admission of a scheduled ABORT. -/
def execSubmitAbort (p : Port) (b : Bank) (s : State) : Answer := ofBoth (submit p b 3) s

/-- SUBMIT_NUDGE (R224): BK_SCH_GO with KIND 4 decides admission of a scheduled NUDGE. -/
def execSubmitNudge (p : Port) (b : Bank) (s : State) : Answer := ofBoth (submit p b 4) s

/-- CANCEL (R444): BK_SCH_GO with KIND 5 withdraws pending commands of a tag. -/
def execCancel (p : Port) (b : Bank) (s : State) : Answer := ofBoth (submit p b 5) s

/-- SCHED_START (R223): At its execution boundary a scheduled START takes effect or is dropped. -/
def execSchedStart (c : Chan) (t : TS) (s : State) : Answer := ofDev (fun d => atField d t fun d => schExec d c 1 1 fun d s => schStart d c s) s

/-- SCHED_STOP (R223): At its execution boundary a scheduled STOP acts. -/
def execSchedStop (c : Chan) (t : TS) (s : State) : Answer := ofMem (fun m d => atField d t fun d => schExec d c 2 7680 fun d _ => machStop m d c) s

/-- SCHED_ABORT (R223): At its execution boundary a scheduled ABORT acts. -/
def execSchedAbort (c : Chan) (t : TS) (s : State) : Answer := ofDev (fun d => atField d t fun d => schExec d c 3 1 fun d _ => machAbort d c) s

/-- SCHED_NUDGE (R223): At its execution boundary EVn becomes pending. -/
def execSchedNudge (c : Chan) (t : TS) (s : State) : Answer := ofDev (fun d => atField d t fun d => schExec d c 4 1 fun d s => schNudge d c s) s

end Sys2Proof.Machine
end

