-- ==== Sys2Proof/Machine/CmdThermal.lean ====
section
/-! DEFINITION. Commands of the thermal model, scrubbing, the Catalogue and Patina (R354 to R380). -/

namespace Sys2Proof.Machine

open Sys2Proof

/-- THERMAL_MODEL_UPDATE (R367): Every 1 ms the thermal model updates node temperatures. -/
def execThermalModelUpdate (power : List Nat) (s : State) : Answer := ofDev (doThermalUpdate power) s

/-- SENSOR_CHECK (R368): Every 100 ms sensors check the model and TREF moves. -/
def execSensorCheck (readings : List Int) (s : State) : Answer := ofDev (doSensorCheck readings) s

/-- SENSOR_READMIT (R369): A write to THM_SENSCTL readmits a sensor. -/
def execSensorReadmit (p : Port) (v : Word) (s : State) : Answer := ofBoth (regPut p bTHM THM_SENSCTL v) s

/-- MODEL_HISTORY_START (R370): 60 s after field start the model gains history. -/
def execModelHistoryStart (t : TS) (s : State) : Answer := ofDev (fun d => atHost d t doModelHistory) s

/-- SCRUB_PASS (R373): A scrub pass corrects single-bit errors. -/
def execScrubPass (kind : ScrubKind) (errs : List CauseIn) (s : State) : Answer := ofDev (doScrub kind errs) s

/-- SHUNT_COMMIT (R361): CAT_SHCMD CMD 1 commits a shunt entry. -/
def execShuntCommit (p : Port) (v : Word) (s : State) : Answer := ofBoth (regPutIf (fun _ => decide (bits v 1 0 = 1)) p bCAT CAT_SHCMD v) s

/-- SHUNT_ERASE (R361): CAT_SHCMD CMD 2 erases a shunt entry. -/
def execShuntErase (p : Port) (v : Word) (s : State) : Answer := ofBoth (regPutIf (fun _ => decide (bits v 1 0 = 2)) p bCAT CAT_SHCMD v) s

/-- SHUNT_WRITE_DONE (R361): Both copies are written and CH_SHUNT takes the new value. -/
def execShuntWriteDone (t : TS) (s : State) : Answer := ofDev (fun d => atHost d t shuntFinish) s

/-- CALIBRATE (R364): CAT_CALCMD CMD 1 starts an external calibration. -/
def execCalibrate (p : Port) (v : Word) (s : State) : Answer := ofBoth (regPutIf (fun _ => decide (bits v 1 0 = 1)) p bCAT CAT_CALCMD v) s

/-- ABANDON (R364): CAT_CALCMD CMD 2 abandons a running calibration. -/
def execAbandon (p : Port) (v : Word) (s : State) : Answer := ofBoth (regPutIf (fun _ => decide (bits v 1 0 = 2)) p bCAT CAT_CALCMD v) s

/-- CAL_PHASE1_END (R364): Phase 1 ends and the die's reference is updated. -/
def execCalPhase1End (t : TS) (first : List CalReading) (refs : List CalReading) (s : State) : Answer :=
  ofDev (fun d => atHost d t (doPhase1End first refs)) s

/-- CAL_PHASE2_END (R365): Phase 2 cross-check ends and RESULT is reported. -/
def execCalPhase2End (t : TS) (s : State) : Answer := ofDev (fun d => atHost d t doPhase2End) s

/-- PATINA_UPDATE (R379): Every 60 s Patina recomputes its outputs. -/
def execPatinaUpdate (s : State) : Answer := ofDev doPatinaUpdate s

/-- PATINA_STORE_WRITE (R379): Hourly Patina writes its stored state. -/
def execPatinaStoreWrite (s : State) : Answer := ofDev doPatinaStore s

end Sys2Proof.Machine
end

