-- ==== Sys2Proof/Machine/CmdTime.lean ====
section
/-! DEFINITION. Commands of the time base: TS and line time, alignment, and the TDCs (R138 to R168, R434, R443). -/

namespace Sys2Proof.Machine

open Sys2Proof

/-- TS_WRAP (R140): TS[63:8] wraps to 0, the wrap count advances and TB_STS.WRAP is set. -/
def execTsWrap (s : State) : Answer := ofDev doTsWrap s

/-- LINE_ANNOUNCE (R143): The line master sends the announcement of the next cycle at phase 0x8000. -/
def execLineAnnounce (t : TS) (s : State) : Answer := ofDev (fun d => atHost d t doLineAnnounce) s

/-- LINE_CYCLE_BOUNDARY (R144): At a line-cycle boundary the device starts the next cycle, from its announcement or synthesised. -/
def execLineCycleBoundary (t : TS) (s : State) : Answer := ofDev (fun d => atHost d t doLineCycle) s

/-- LINE_SYNC_EDGE (R145): A LINE_SYNC rising edge is time-stamped and accepted for a cycle or rejected. -/
def execLineSyncEdge (t : TS) (s : State) : Answer := ofDev (fun d => atHost d t doLineSync) s

/-- LINELOSS (R148): After 3 cycles without edges, or 8 without an accepted edge, the line timer enters LOST. -/
def execLineloss (t : TS) (s : State) : Answer := ofDev (fun d => atHost d t doLineLoss) s

/-- LSRC_WRITE (R148): A write of TB_CTL.LSRC = 1 puts the line timer in FREE and makes it ignore LINE_SYNC. -/
def execLsrcWrite (p : Port) (s : State) : Answer := ofBoth (portWrite p .b32 (regAddr bTB (TB_CTL + 0x4000)) 0x8) s

/-- TIME_ENABLE (R443): A write setting TB_CTL.TEN starts taking time from the source, or aligns a source device at once. -/
def execTimeEnable (p : Port) (v : Word) (s : State) : Answer := ofBoth (regPutIf (fun _ => bit v 0) p bTB TB_CTL v) s

/-- TIME_SYNC (R319): A TIME SYNC message is stamped on leaving port D and on arrival at port U. -/
def execTimeSync (f : SlFrame) (rx : Bool) (t : TS) (s : State) : Answer := ofDev (fun d => atHost d t (doTimeSync f rx)) s

/-- TIME_DELAY (R319): A TIME DELAY message returned from port U is stamped on leaving and arrival. -/
def execTimeDelay (f : SlFrame) (rx : Bool) (t : TS) (s : State) : Answer := ofDev (fun d => atHost d t (doTimeDelay f rx)) s

/-- TIME_FOLLOW (R150): A TIME FOLLOW message gives t1 and t4, from which the receiver computes delay and offset and corrects its TS. -/
def execTimeFollow (f : SlFrame) (t : TS) (s : State) : Answer := ofDev (fun d => atHost d t (doTimeFollow f)) s

/-- ANNOUNCE (R319): A received TIME ANNOUNCE gives the next line cycle and is forwarded out of port D. -/
def execAnnounce (f : SlFrame) (t : TS) (s : State) : Answer := ofDev (fun d => atHost d t (doAnnounce f)) s

/-- TSYNC_OUT_PULSE (R152): The device drives a TSYNC_OUT pulse or marker pulse at each multiple of 2^PER periods. -/
def execTsyncOutPulse (t : TS) (s : State) : Answer := ofDev (fun d => atHost d t doTsyncOut) s

/-- TSYNC_IN_PULSE (R152): A TSYNC_IN pulse is time-stamped and gives a slew offset, a TSSET load or an echo. -/
def execTsyncInPulse (t : TS) (marker : Bool) (s : State) : Answer := ofDev (fun d => atHost d t (doTsyncIn marker)) s

/-- TSSET_WRITE (R48): The guarded high-word write of TB_TSSET stores the pending coarse time. -/
def execTssetWrite (p : Port) (hi : Word) (s : State) : Answer := ofBoth (regPut p bTB TB_TSSET_HI hi) s

/-- TIME_SOURCE_LOSS (R157): On loss of port U lock or 4 missing TSYNC pulses the device keeps TS running and sets THOLD. -/
def execTimeSourceLoss (t : TS) (s : State) : Answer := ofDev (fun d => atHost d t doSourceLoss) s

/-- TIME_SOURCE_RETURN (R157): When the time source returns the device resumes slewing. -/
def execTimeSourceReturn (t : TS) (s : State) : Answer := ofDev (fun d => atHost d t doSourceReturn) s

/-- HOP_CAL_START (R153): A write of TB_CAL.START begins a 256-pulse hop calibration. -/
def execHopCalStart (p : Port) (v : Word) (s : State) : Answer := ofBoth (regPutIf (fun _ => bit v 31) p bTB TB_CAL v) s

/-- HOP_CAL_DONE (R153): After 256 echoed pulses the line master forms TB_CALRES.DLY and VALID. -/
def execHopCalDone (t : TS) (s : State) : Answer := ofDev (fun d => atHost d t doHopCal) s

/-- CODE_DENSITY_DONE (R161): After 2^20 hits in a band the tap table is formed, stored and applied or rejected. -/
def execCodeDensityDone (line : Fin 390) (hits : List Nat) (s : State) : Answer := ofDev (doCodeDensity line hits) s

/-- TAP_TABLE_APPLY (R162): A new tap table applies from the next CK_TIME edge at a modulator sample boundary. -/
def execTapTableApply (line : Fin 390) (t : TS) (s : State) : Answer :=
  ofDev (fun d => if hostLine line.val then atHost d t (doTapApply line t) else atField d t (doTapApply line t)) s

/-- SYSTEM_TDC_EDGE (R168): A selected edge inside the gate is stamped into a system TDC queue. -/
def execSystemTdcEdge (k : Fin 4) (rising : Bool) (hit : Hit) (s : State) : Answer :=
  ofDev (fun d => atHost d hit.t (doSysEdge k rising hit.t hit.tap)) s

/-- TDC_QUEUE_POP (R164): A read of word 3 of a TDC queue window returns and removes the head entry. -/
def execTdcQueuePop (p : Port) (addr : Word) (s : State) : Answer := ofBoth (portReadIf isQueuePop p addr) s

/-- REFLOSS (R434): When REFCLK is absent or off frequency the host PLL holds and REFLOSS is set. -/
def execRefloss (s : State) : Answer := ofDev doRefLoss s

/-- REFCLK_RETURN (R434): REFCLK returns within tolerance, the host PLL relocks to it and DEV_STS.REFOK reads 1 again. -/
def execRefclkReturn (s : State) : Answer := ofDev doRefReturn s

end Sys2Proof.Machine
end

