-- ==== Sys2Proof/Machine/Dispatch.lean ====
section
/-! DEFINITION. The dispatcher: one arm per command, each a direct call of its meaning. -/

namespace Sys2Proof.Machine

open Sys2Proof

/-- What a command does to everything but the queue. -/
def exec (i : Instr) (s : State) : Host.Outcome State Fault Refusal :=
  match i with
  | .regWrite p addr width v => Sys2Proof.Machine.execRegWrite p addr width v s
  | .aliasWrite p addr width v => Sys2Proof.Machine.execAliasWrite p addr width v s
  | .unlock p addr v => Sys2Proof.Machine.execUnlock p addr v s
  | .accessionWriteBack p addr v => Sys2Proof.Machine.execAccessionWriteBack p addr v s
  | .lowWordRead p addr => Sys2Proof.Machine.execLowWordRead p addr s
  | .lowWordWrite p addr v => Sys2Proof.Machine.execLowWordWrite p addr v s
  | .unmappedAccess p addr write v => Sys2Proof.Machine.execUnmappedAccess p addr write v s
  | .mspReadFrame cmd nbits late => Sys2Proof.Machine.execMspReadFrame cmd nbits late s
  | .mspWriteFrame cmd data extra => Sys2Proof.Machine.execMspWriteFrame cmd data extra s
  | .mspChainFrame di nbits late => Sys2Proof.Machine.execMspChainFrame di nbits late s
  | .chainWriteLow idx data => Sys2Proof.Machine.execChainWriteLow idx data s
  | .chainWriteHigh idx data => Sys2Proof.Machine.execChainWriteHigh idx data s
  | .chainReadLow idx => Sys2Proof.Machine.execChainReadLow idx s
  | .chainReadHigh idx => Sys2Proof.Machine.execChainReadHigh idx s
  | .chainNop => Sys2Proof.Machine.execChainNop s
  | .mspPageWrite v => Sys2Proof.Machine.execMspPageWrite v s
  | .mspCfgWrite p v => Sys2Proof.Machine.execMspCfgWrite p v s
  | .mspXdataAccess p write v => Sys2Proof.Machine.execMspXdataAccess p write v s
  | .cmdFrame h p write addr v => Sys2Proof.Machine.execCmdFrame h p write addr v s
  | .rspFrame h => Sys2Proof.Machine.execRspFrame h s
  | .recFrame h => Sys2Proof.Machine.execRecFrame h s
  | .timeFrameSend t => Sys2Proof.Machine.execTimeFrameSend t s
  | .timeFrame h t2 => Sys2Proof.Machine.execTimeFrame h t2 s
  | .timeEcho h t3 t4 => Sys2Proof.Machine.execTimeEcho h t3 t4 s
  | .trigFrame h h2 m => Sys2Proof.Machine.execTrigFrame h h2 m s
  | .fltFrame h => Sys2Proof.Machine.execFltFrame h s
  | .fatalFltFrame h => Sys2Proof.Machine.execFatalFltFrame h s
  | .bootFrame h words last => Sys2Proof.Machine.execBootFrame h words last s
  | .hbSend => Sys2Proof.Machine.execHbSend s
  | .hbFrame h t => Sys2Proof.Machine.execHbFrame h t s
  | .xcAutoWrite p v => Sys2Proof.Machine.execXcAutoWrite p v s
  | .laneDown toHost lane => Sys2Proof.Machine.execLaneDown toHost lane s
  | .lane0 toHost => Sys2Proof.Machine.execLane0 toHost s
  | .autonomyExpiry t => Sys2Proof.Machine.execAutonomyExpiry t s
  | .fieldloss t => Sys2Proof.Machine.execFieldloss t s
  | .xloss t => Sys2Proof.Machine.execXloss t s
  | .crossingRestored => Sys2Proof.Machine.execCrossingRestored s
  | .ckXfLoss => Sys2Proof.Machine.execCkXfLoss s
  | .ckXfReturn => Sys2Proof.Machine.execCkXfReturn s
  | .chEnable p c v => Sys2Proof.Machine.execChEnable p c v s
  | .chDisable p c v => Sys2Proof.Machine.execChDisable p c v s
  | .pwmBoundary c t => Sys2Proof.Machine.execPwmBoundary c t s
  | .swtEdge c rising hit => Sys2Proof.Machine.execSwtEdge c rising hit s
  | .swtloss c => Sys2Proof.Machine.execSwtloss c s
  | .swtdead c => Sys2Proof.Machine.execSwtdead c s
  | .loopSample c t fv fi => Sys2Proof.Machine.execLoopSample c t fv fi s
  | .loopTick c t => Sys2Proof.Machine.execLoopTick c t s
  | .vwindow c => Sys2Proof.Machine.execVwindow c s
  | .draLimit c t => Sys2Proof.Machine.execDraLimit c t s
  | .sclim c t => Sys2Proof.Machine.execSclim c t s
  | .groupForm p c v => Sys2Proof.Machine.execGroupForm p c v s
  | .groupDissolve p c v => Sys2Proof.Machine.execGroupDissolve p c v s
  | .share c member t => Sys2Proof.Machine.execShare c member t s
  | .bankEnable p b => Sys2Proof.Machine.execBankEnable p b s
  | .bankDisable p b => Sys2Proof.Machine.execBankDisable p b s
  | .endlyExpiry b t => Sys2Proof.Machine.execEndlyExpiry b t s
  | .bankflt b high => Sys2Proof.Machine.execBankflt b high s
  | .bknFltLow b t => Sys2Proof.Machine.execBknFltLow b t s
  | .modSample c t v i0 fv => Sys2Proof.Machine.execModSample c t v i0 fv s
  | .filterOutput c t => Sys2Proof.Machine.execFilterOutput c t s
  | .lineIntegrationEnd c t => Sys2Proof.Machine.execLineIntegrationEnd c t s
  | .qeclr p c => Sys2Proof.Machine.execQeclr p c s
  | .qeclrApply c t => Sys2Proof.Machine.execQeclrApply c t s
  | .fastTrim c t => Sys2Proof.Machine.execFastTrim c t s
  | .auxSlotStart c t => Sys2Proof.Machine.execAuxSlotStart c t s
  | .auxResult c t x => Sys2Proof.Machine.execAuxResult c t x s
  | .rsvTurnStart b t => Sys2Proof.Machine.execRsvTurnStart b t s
  | .rsvShadowStart b t => Sys2Proof.Machine.execRsvShadowStart b t s
  | .handover b t dv di => Sys2Proof.Machine.execHandover b t dv di s
  | .rsvTurnSkip b t => Sys2Proof.Machine.execRsvTurnSkip b t s
  | .rsvCalPhase b t accept check => Sys2Proof.Machine.execRsvCalPhase b t accept check s
  | .rsvReconnect b t => Sys2Proof.Machine.execRsvReconnect b t s
  | .handback b t dv di => Sys2Proof.Machine.execHandback b t dv di s
  | .rsvSelfCal b t failV failI => Sys2Proof.Machine.execRsvSelfCal b t failV failI s
  | .rsvTurnEnd b t => Sys2Proof.Machine.execRsvTurnEnd b t s
  | .periodicRecord c t => Sys2Proof.Machine.execPeriodicRecord c t s
  | .tsWrap => Sys2Proof.Machine.execTsWrap s
  | .lineAnnounce t => Sys2Proof.Machine.execLineAnnounce t s
  | .lineCycleBoundary t => Sys2Proof.Machine.execLineCycleBoundary t s
  | .lineSyncEdge t => Sys2Proof.Machine.execLineSyncEdge t s
  | .lineloss t => Sys2Proof.Machine.execLineloss t s
  | .lsrcWrite p => Sys2Proof.Machine.execLsrcWrite p s
  | .timeEnable p v => Sys2Proof.Machine.execTimeEnable p v s
  | .timeSync f rx t => Sys2Proof.Machine.execTimeSync f rx t s
  | .timeDelay f rx t => Sys2Proof.Machine.execTimeDelay f rx t s
  | .timeFollow f t => Sys2Proof.Machine.execTimeFollow f t s
  | .announce f t => Sys2Proof.Machine.execAnnounce f t s
  | .tsyncOutPulse t => Sys2Proof.Machine.execTsyncOutPulse t s
  | .tsyncInPulse t marker => Sys2Proof.Machine.execTsyncInPulse t marker s
  | .tssetWrite p hi => Sys2Proof.Machine.execTssetWrite p hi s
  | .timeSourceLoss t => Sys2Proof.Machine.execTimeSourceLoss t s
  | .timeSourceReturn t => Sys2Proof.Machine.execTimeSourceReturn t s
  | .hopCalStart p v => Sys2Proof.Machine.execHopCalStart p v s
  | .hopCalDone t => Sys2Proof.Machine.execHopCalDone t s
  | .codeDensityDone line hits => Sys2Proof.Machine.execCodeDensityDone line hits s
  | .tapTableApply line t => Sys2Proof.Machine.execTapTableApply line t s
  | .systemTdcEdge k rising hit => Sys2Proof.Machine.execSystemTdcEdge k rising hit s
  | .tdcQueuePop p addr => Sys2Proof.Machine.execTdcQueuePop p addr s
  | .refloss => Sys2Proof.Machine.execRefloss s
  | .nop c => Sys2Proof.Machine.execNop c s
  | .jmp c => Sys2Proof.Machine.execJmp c s
  | .jcc c => Sys2Proof.Machine.execJcc c s
  | .bev c => Sys2Proof.Machine.execBev c s
  | .call c => Sys2Proof.Machine.execCall c s
  | .ret c => Sys2Proof.Machine.execRet c s
  | .loop c => Sys2Proof.Machine.execLoop c s
  | .endl c => Sys2Proof.Machine.execEndl c s
  | .waitl c => Sys2Proof.Machine.execWaitl c s
  | .waitt c => Sys2Proof.Machine.execWaitt c s
  | .waitTargetReached c t => Sys2Proof.Machine.execWaitTargetReached c t s
  | .syncg c => Sys2Proof.Machine.execSyncg c s
  | .syncgRelease c t => Sys2Proof.Machine.execSyncgRelease c t s
  | .syncgTimeout c t => Sys2Proof.Machine.execSyncgTimeout c t s
  | .halt c => Sys2Proof.Machine.execHalt c s
  | .mov c => Sys2Proof.Machine.execMov c s
  | .ldi c => Sys2Proof.Machine.execLdi c s
  | .add c => Sys2Proof.Machine.execAdd c s
  | .sub c => Sys2Proof.Machine.execSub c s
  | .mul c => Sys2Proof.Machine.execMul c s
  | .mulq c => Sys2Proof.Machine.execMulq c s
  | .cmp c => Sys2Proof.Machine.execCmp c s
  | .min c => Sys2Proof.Machine.execMin c s
  | .max c => Sys2Proof.Machine.execMax c s
  | .abs c => Sys2Proof.Machine.execAbs c s
  | .and c => Sys2Proof.Machine.execAnd c s
  | .or c => Sys2Proof.Machine.execOr c s
  | .xor c => Sys2Proof.Machine.execXor c s
  | .shl c => Sys2Proof.Machine.execShl c s
  | .shr c => Sys2Proof.Machine.execShr c s
  | .force c => Sys2Proof.Machine.execForce c s
  | .ramp c => Sys2Proof.Machine.execRamp c s
  | .hold c => Sys2Proof.Machine.execHold c s
  | .rest c => Sys2Proof.Machine.execRest c s
  | .limit c => Sys2Proof.Machine.execLimit c s
  | .untilCond c => Sys2Proof.Machine.execUntilCond c s
  | .ledger c => Sys2Proof.Machine.execLedger c s
  | .play c => Sys2Proof.Machine.execPlay c s
  | .stream c => Sys2Proof.Machine.execStream c s
  | .queueRoom c => Sys2Proof.Machine.execQueueRoom c s
  | .segm c => Sys2Proof.Machine.execSegm c s
  | .meas c => Sys2Proof.Machine.execMeas c s
  | .measDone c t => Sys2Proof.Machine.execMeasDone c t s
  | .snap c => Sys2Proof.Machine.execSnap c s
  | .snapDone c => Sys2Proof.Machine.execSnapDone c s
  | .arm c => Sys2Proof.Machine.execArm c s
  | .armInstant c t => Sys2Proof.Machine.execArmInstant c t s
  | .trigc c => Sys2Proof.Machine.execTrigc c s
  | .mould c => Sys2Proof.Machine.execMould c s
  | .eis c => Sys2Proof.Machine.execEis c s
  | .pulse c => Sys2Proof.Machine.execPulse c s
  | .sig c => Sys2Proof.Machine.execSig c s
  | .sigEmit c t => Sys2Proof.Machine.execSigEmit c t s
  | .post c => Sys2Proof.Machine.execPost c s
  | .sealColophon c => Sys2Proof.Machine.execSealColophon c s
  | .sealSpoolSpace c => Sys2Proof.Machine.execSealSpoolSpace c s
  | .fault c => Sys2Proof.Machine.execFault c s
  | .stepStart c t => Sys2Proof.Machine.execStepStart c t s
  | .controlSampleBoundary c t => Sys2Proof.Machine.execControlSampleBoundary c t s
  | .stepEnd c t => Sys2Proof.Machine.execStepEnd c t s
  | .start p c v => Sys2Proof.Machine.execStart p c v s
  | .startEffect c => Sys2Proof.Machine.execStartEffect c s
  | .stop p c => Sys2Proof.Machine.execStop p c s
  | .abort p c => Sys2Proof.Machine.execAbort p c s
  | .clear p c => Sys2Proof.Machine.execClear p c s
  | .nudge p c ev => Sys2Proof.Machine.execNudge p c ev s
  | .commit p b v => Sys2Proof.Machine.execCommit p b v s
  | .commitDone b => Sys2Proof.Machine.execCommitDone b s
  | .release p b v => Sys2Proof.Machine.execRelease p b v s
  | .programWordWrite p b i0 hi => Sys2Proof.Machine.execProgramWordWrite p b i0 hi s
  | .timerTick b tm t => Sys2Proof.Machine.execTimerTick b tm t s
  | .successorDeadline c t => Sys2Proof.Machine.execSuccessorDeadline c t s
  | .strm h payload => Sys2Proof.Machine.execStrm h payload s
  | .streamReset p c v => Sys2Proof.Machine.execStreamReset p c v s
  | .submitStart p b => Sys2Proof.Machine.execSubmitStart p b s
  | .submitStop p b => Sys2Proof.Machine.execSubmitStop p b s
  | .submitAbort p b => Sys2Proof.Machine.execSubmitAbort p b s
  | .submitNudge p b => Sys2Proof.Machine.execSubmitNudge p b s
  | .cancel p b => Sys2Proof.Machine.execCancel p b s
  | .schedStart c t => Sys2Proof.Machine.execSchedStart c t s
  | .schedStop c t => Sys2Proof.Machine.execSchedStop c t s
  | .schedAbort c t => Sys2Proof.Machine.execSchedAbort c t s
  | .schedNudge c t => Sys2Proof.Machine.execSchedNudge c t s
  | .captureOutput c t => Sys2Proof.Machine.execCaptureOutput c t s
  | .captureFire c t => Sys2Proof.Machine.execCaptureFire c t s
  | .settleWindowClose c t => Sys2Proof.Machine.execSettleWindowClose c t s
  | .captureEnd c t => Sys2Proof.Machine.execCaptureEnd c t s
  | .disarm p c => Sys2Proof.Machine.execDisarm p c s
  | .hostFire p c => Sys2Proof.Machine.execHostFire p c s
  | .capAllocWrite p c v => Sys2Proof.Machine.execCapAllocWrite p c v s
  | .mouldEnable p b m v => Sys2Proof.Machine.execMouldEnable p b m v s
  | .mouldViolation c t => Sys2Proof.Machine.execMouldViolation c t s
  | .eisProfileEnable p b k v => Sys2Proof.Machine.execEisProfileEnable p b k v s
  | .pulseProfileEnable p b k v => Sys2Proof.Machine.execPulseProfileEnable p b k v s
  | .eisResultsReady c t => Sys2Proof.Machine.execEisResultsReady c t s
  | .ledgerto c t => Sys2Proof.Machine.execLedgerto c t s
  | .ledgerEnable p v => Sys2Proof.Machine.execLedgerEnable p v s
  | .ledgerRecord t => Sys2Proof.Machine.execLedgerRecord t s
  | .ledover t => Sys2Proof.Machine.execLedover t s
  | .powerStateEntry b t => Sys2Proof.Machine.execPowerStateEntry b t s
  | .plannedWake b t => Sys2Proof.Machine.execPlannedWake b t s
  | .wake b t => Sys2Proof.Machine.execWake b t s
  | .resumeComplete b t => Sys2Proof.Machine.execResumeComplete b t s
  | .ocvRead b t vs => Sys2Proof.Machine.execOcvRead b t vs s
  | .comparatorTransition c k out t => Sys2Proof.Machine.execComparatorTransition c k out t s
  | .sampledDecision c ov uv oc rp t => Sys2Proof.Machine.execSampledDecision c ov uv oc rp t s
  | .interlock t => Sys2Proof.Machine.execInterlock t s
  | .filkRelease t => Sys2Proof.Machine.execFilkRelease t s
  | .selfCheck p b mask => Sys2Proof.Machine.execSelfCheck p b mask s
  | .selfCheckDone b t fails => Sys2Proof.Machine.execSelfCheckDone b t fails s
  | .regRd q f => Sys2Proof.Machine.execRegRd q f s
  | .regWr q f => Sys2Proof.Machine.execRegWr q f s
  | .regBurst q f => Sys2Proof.Machine.execRegBurst q f s
  | .memRd q f => Sys2Proof.Machine.execMemRd q f s
  | .memWr q f => Sys2Proof.Machine.execMemWr q f s
  | .slFrameForward q f => Sys2Proof.Machine.execSlFrameForward q f s
  | .ack q lseq => Sys2Proof.Machine.execAck q lseq s
  | .nak q lseq => Sys2Proof.Machine.execNak q lseq s
  | .replayTimeout q t => Sys2Proof.Machine.execReplayTimeout q t s
  | .trigFire q m => Sys2Proof.Machine.execTrigFire q m s
  | .trigArm q m => Sys2Proof.Machine.execTrigArm q m s
  | .trigPulse q m => Sys2Proof.Machine.execTrigPulse q m s
  | .trigHigh q m => Sys2Proof.Machine.execTrigHigh q m s
  | .trigLow q m => Sys2Proof.Machine.execTrigLow q m s
  | .linkTrained q n => Sys2Proof.Machine.execLinkTrained q n s
  | .discAnnounceRepeat t => Sys2Proof.Machine.execDiscAnnounceRepeat t s
  | .discAnnounce f => Sys2Proof.Machine.execDiscAnnounce f s
  | .discAssign f => Sys2Proof.Machine.execDiscAssign f s
  | .slRingWrite p v => Sys2Proof.Machine.execSlRingWrite p v s
  | .portLoss q t => Sys2Proof.Machine.execPortLoss q t s
  | .topoLoss q f => Sys2Proof.Machine.execTopoLoss q f s
  | .topoRestore q f => Sys2Proof.Machine.execTopoRestore q f s
  | .portDown p q => Sys2Proof.Machine.execPortDown p q s
  | .portUp p q => Sys2Proof.Machine.execPortUp p q s
  | .erase q f => Sys2Proof.Machine.execErase q f s
  | .chunk q f => Sys2Proof.Machine.execChunk q f s
  | .verify q f => Sys2Proof.Machine.execVerify q f s
  | .switch q f => Sys2Proof.Machine.execSwitch q f s
  | .hostRestartDone verified => Sys2Proof.Machine.execHostRestartDone verified s
  | .arbCommit p v => Sys2Proof.Machine.execArbCommit p v s
  | .attest q f => Sys2Proof.Machine.execAttest q f s
  | .attestReport => Sys2Proof.Machine.execAttestReport s
  | .colophonSigned => Sys2Proof.Machine.execColophonSigned s
  | .colophonResend seq t => Sys2Proof.Machine.execColophonResend seq t s
  | .secCack p seq => Sys2Proof.Machine.execSecCack p seq s
  | .faultCause cause => Sys2Proof.Machine.execFaultCause cause s
  | .fatalEntry code p0 p1 => Sys2Proof.Machine.execFatalEntry code p0 p1 s
  | .freeze p v => Sys2Proof.Machine.execFreeze p v s
  | .thaw p v => Sys2Proof.Machine.execThaw p v s
  | .freezeTimeout t => Sys2Proof.Machine.execFreezeTimeout t s
  | .clrring p v => Sys2Proof.Machine.execClrring p v s
  | .clrhist p v => Sys2Proof.Machine.execClrhist p v s
  | .folioWindowRead p => Sys2Proof.Machine.execFolioWindowRead p s
  | .folioSourceEnable p n v => Sys2Proof.Machine.execFolioSourceEnable p n v s
  | .thermalModelUpdate power => Sys2Proof.Machine.execThermalModelUpdate power s
  | .sensorCheck readings => Sys2Proof.Machine.execSensorCheck readings s
  | .sensorReadmit p v => Sys2Proof.Machine.execSensorReadmit p v s
  | .modelHistoryStart t => Sys2Proof.Machine.execModelHistoryStart t s
  | .scrubPass kind errs => Sys2Proof.Machine.execScrubPass kind errs s
  | .shuntCommit p v => Sys2Proof.Machine.execShuntCommit p v s
  | .shuntErase p v => Sys2Proof.Machine.execShuntErase p v s
  | .shuntWriteDone t => Sys2Proof.Machine.execShuntWriteDone t s
  | .calibrate p v => Sys2Proof.Machine.execCalibrate p v s
  | .abandon p v => Sys2Proof.Machine.execAbandon p v s
  | .calPhase1End t first refs => Sys2Proof.Machine.execCalPhase1End t first refs s
  | .calPhase2End t => Sys2Proof.Machine.execCalPhase2End t s
  | .patinaUpdate => Sys2Proof.Machine.execPatinaUpdate s
  | .patinaStoreWrite => Sys2Proof.Machine.execPatinaStoreWrite s
  | .hostStart role bootsel => Sys2Proof.Machine.execHostStart role bootsel s
  | .resetAssert longEnough => Sys2Proof.Machine.execResetAssert longEnough s
  | .hostRailLoss => Sys2Proof.Machine.execHostRailLoss s
  | .fieldPorRelease => Sys2Proof.Machine.execFieldPorRelease s
  | .fieldRailLoss => Sys2Proof.Machine.execFieldRailLoss s
  | .fieldUp t => Sys2Proof.Machine.execFieldUp t s
  | .freboot p v => Sys2Proof.Machine.execFreboot p v s
  | .reservedOp c => Sys2Proof.Machine.execReservedOp c s
  | .verifyDone slot => Sys2Proof.Machine.execVerifyDone slot s
  | .heartbeatGap t => Sys2Proof.Machine.execHeartbeatGap t s
  | .refclkReturn => Sys2Proof.Machine.execRefclkReturn s

end Sys2Proof.Machine
end

