-- ==== Sys2Proof/WellFormed.lean ====
section
/-! DEFINITION. What a well-formed command carries: valid timestamps, and lists of the lengths that the hardware has. A command that is not well formed stands for no event of the hardware; the meanings are total all the same. -/

namespace Sys2Proof

/-- A TS is valid when its tap field is below 160 (R139). -/
def validTs (t : TS) : Bool := decide (t.toNat % 256 < 160)

/-- The instants a command carries. -/
def Instr.instants : Instr → List TS
  | .timeFrame _ t => [t]
  | .timeEcho _ t t' => [t, t']
  | .timeFrameSend t => [t]
  | .hbFrame _ t => [t]
  | .autonomyExpiry t => [t]
  | .fieldloss t => [t]
  | .xloss t => [t]
  | .heartbeatGap t => [t]
  | .pwmBoundary _ t => [t]
  | .swtEdge _ _ h => [h.t]
  | .loopSample _ t _ _ => [t]
  | .loopTick _ t => [t]
  | .draLimit _ t => [t]
  | .sclim _ t => [t]
  | .share _ _ t => [t]
  | .endlyExpiry _ t => [t]
  | .bankflt _ h => [h.since, h.t]
  | .bknFltLow _ t => [t]
  | .modSample _ t _ _ _ => [t]
  | .filterOutput _ t => [t]
  | .lineIntegrationEnd _ t => [t]
  | .qeclrApply _ t => [t]
  | .fastTrim _ t => [t]
  | .auxSlotStart _ t => [t]
  | .auxResult _ t _ => [t]
  | .rsvTurnStart _ t => [t]
  | .rsvShadowStart _ t => [t]
  | .handover _ t _ _ => [t]
  | .rsvTurnSkip _ t => [t]
  | .rsvCalPhase _ t _ _ => [t]
  | .rsvReconnect _ t => [t]
  | .handback _ t _ _ => [t]
  | .rsvSelfCal _ t _ _ => [t]
  | .rsvTurnEnd _ t => [t]
  | .periodicRecord _ t => [t]
  | .lineAnnounce t => [t]
  | .lineCycleBoundary t => [t]
  | .lineSyncEdge t => [t]
  | .lineloss t => [t]
  | .timeSync _ _ t => [t]
  | .timeDelay _ _ t => [t]
  | .timeFollow _ t => [t]
  | .announce _ t => [t]
  | .tsyncOutPulse t => [t]
  | .tsyncInPulse t _ => [t]
  | .timeSourceLoss t => [t]
  | .timeSourceReturn t => [t]
  | .tapTableApply _ t => [t]
  | .systemTdcEdge _ _ h => [h.t]
  | .hopCalDone t => [t]
  | .waitTargetReached _ t => [t]
  | .syncgRelease _ t => [t]
  | .syncgTimeout _ t => [t]
  | .measDone _ t => [t]
  | .armInstant _ t => [t]
  | .sigEmit _ t => [t]
  | .stepStart _ t => [t]
  | .controlSampleBoundary _ t => [t]
  | .stepEnd _ t => [t]
  | .timerTick _ _ t => [t]
  | .successorDeadline _ t => [t]
  | .schedStart _ t => [t]
  | .schedStop _ t => [t]
  | .schedAbort _ t => [t]
  | .schedNudge _ t => [t]
  | .captureOutput _ t => [t]
  | .captureFire _ t => [t]
  | .settleWindowClose _ t => [t]
  | .captureEnd _ t => [t]
  | .mouldViolation _ t => [t]
  | .eisResultsReady _ t => [t]
  | .ledgerto _ t => [t]
  | .ledgerRecord t => [t]
  | .ledover t => [t]
  | .powerStateEntry _ t => [t]
  | .plannedWake _ t => [t]
  | .wake _ t => [t]
  | .resumeComplete _ t => [t]
  | .ocvRead _ t _ => [t]
  | .comparatorTransition _ _ _ t => [t]
  | .sampledDecision _ _ _ _ _ t => [t]
  | .interlock t => [t]
  | .filkRelease t => [t]
  | .selfCheckDone _ t _ => [t]
  | .replayTimeout _ t => [t]
  | .discAnnounceRepeat t => [t]
  | .portLoss _ t => [t]
  | .colophonResend _ t => [t]
  | .freezeTimeout t => [t]
  | .modelHistoryStart t => [t]
  | .shuntWriteDone t => [t]
  | .calPhase1End t _ _ => [t]
  | .calPhase2End t => [t]
  | .fieldUp t => [t]
  | _ => []

/-- Whether the lists and counts of a command have the sizes the hardware gives them: a tap table has 192 taps (R161), the thermal model
10 nodes (R367) and 12 sensors (R368), a bank 24 channels (R9), a die four banks (R364); a frame carries as many words as its LEN says (R309), and the bits of a
write frame beyond its whole words are fewer than a word (R61). -/
def Instr.sized : Instr → Bool
  | .mspWriteFrame _ _ extra => decide (extra < 32)
  | .strm h payload => decide (h.len.val = payload.length)
  | .codeDensityDone _ table => decide (table.length = 192)
  | .ocvRead _ _ vs => decide (vs.length = 24)
  | .thermalModelUpdate power => decide (power.length = 10)
  | .sensorCheck readings => decide (readings.length = 12)
  | .calPhase1End _ first refs => decide (first.length ≤ 4) && decide (refs.length ≤ 4)
  | _ => true

/-- A well-formed command. -/
def Instr.wf (i : Instr) : Bool := i.instants.all validTs && i.sized

end Sys2Proof
end

