-- ==== Sys2Proof/Safety.lean ====
section
/-! DEFINITION. What counts as a safe run, and the terms in which the statements speak of the block: when an access is served, when an event can take place, what an Autis machine issues, and what stays the same. -/

namespace Sys2Proof.Machine

open Sys2Proof

/-! ### Runs -/

/-- A step that is safe: it answers a next state in which the bank memories keep their canonical form. -/
def SafeStep (s : State) : Prop := ∃ t, step s = .next t ∧ (s.mem.wf = true → t.mem.wf = true)

/-- The states that a run from `s` reaches. -/
inductive Reaches (s : State) : State → Prop where
  | start : Reaches s s
  | step {t u : State} : Reaches s t → Machine.step t = .next u → Reaches s u

/-! ### Port accesses -/

/-- The registers of a block can be written and read through the ports: the ports perform the access, a field block is up behind a crossing
that works, and no protective clear of this cycle stands against the write (R10, R47, R341, R403, R405). -/
def Serves (s : State) (write : Bool) (k : Blk) (off : Nat) : Prop :=
  portServes s.dev write (regAddr k off) = true ∧ (blkField k = true → s.dev.pwr.fup = true ∧ s.dev.xc.up = true) ∧
  (write = true → ∀ p, maskIn s.dev.cleared (regKey k (homeOff p k off)) = 0)

/-- A register whose write through an alias only stores its RW fields (R6, R50): no status register, no key, no guarded or 64-bit field, and
none of the registers whose write does more. -/
def PlainWrite (s : State) (p : Port) (k : Blk) (off al : Nat) (v : Word) (r : RegDef) : Prop :=
  off < 0x4000 ∧ (∃ i, regAt k off = some (r, i)) ∧ off ≠ UNLOCK_OFF ∧ r.ra = 0 ∧ r.wk = 0 ∧ r.lo64 = false ∧ r.w1 = 0 ∧
  (k = bTB → off ≠ TB_TSSET_HI) ∧ k ≠ bFOL ∧ (k = bMSP → off ≠ MSP_XDATA) ∧ (∀ b, k = .bank b .bk → off ≠ BK_SCH_LT_HI) ∧
  (match k with
    | .host h => hostWrite (accessCycle s.dev (portNo p).val) p h off al v r = none
    | _ => fieldWrite s.mem (accessCycle s.dev (portNo p).val) p k off al v r = none)

/-- What a plain write through an alias asks a register to hold (R6, R37): the RW bits take the value, or the old bits set, cleared or toggled
by it; other bits stay; a value outside a field's range is stored as the field's rule says, and the bits of other fields stay. -/
def asksFor (s : State) (p : Port) (k : Blk) (off al : Nat) (v : Word) (r : RegDef) : Word :=
  let old := rd s.dev k (homeOff p k off)
  let new := match al with
    | 0 => v
    | 1 => old ||| v
    | 2 => old &&& ~~~v
    | _ => old ^^^ v
  merge old (normReg k off (merge old (preNorm k off new) r.rw)) r.rw

/-- What a write leaves of a value: the bits that a protective clear has taken in the same cycle stay 0 (R47). -/
def unlessCleared (s : State) (p : Port) (k : Blk) (off : Nat) (v : Word) : Word :=
  merge v 0 (maskIn (accessCycle s.dev (portNo p).val).cleared (regKey k (homeOff p k off)))

/-- The device when a crossing frame acts: the good frame noted and its number taken (R11, R14). -/
def frameTaken (d : Dev) (h : XHead) : Dev := xSeqPut (xGoodNote d h) h

/-- A Shelf Link frame is accepted on a port and is for this device (R310 to R312). -/
def Arrives (d : Dev) (q : Side) (f : SlFrame) : Prop := (slAccept d q f).1 = true ∧ slMine d f = true

/-- A request of a type that the device performs (R312, R314, R315): accepted, for this device, in a major it knows, with no fatal state, no
restart and no recovery to turn it away. -/
def Asks (d : Dev) (q : Side) (f : SlFrame) (type : Nat) : Prop :=
  Arrives d q f ∧ f.type.val = type ∧ f.resp = false ∧ (f.vmaj.val = 2 ∨ f.vmaj.val = 3) ∧ d.pwr.fatal = none ∧ d.sl.restart = false ∧
  inRecovery d = false

/-- The frames that a port holds: those sent and not yet acknowledged, and those that wait (R310, R321). -/
def portFrames (d : Dev) (q : Side) : List SlFrame := (slPort d q).replay.map (fun x => x.frame) ++ (slPort d q).wait.map fun x => x.frame

/-- A port holds the device's response to a request (R314): its type with RESP, the request's TAG, and a payload. -/
def Answers (u : State) (f : SlFrame) (ws : List Word) : Prop :=
  ∃ q, ∃ g ∈ portFrames u.dev q, g.type = f.type ∧ g.resp = true ∧ g.tag = f.tag ∧ g.payload = ws

/-- The register that shows a port's neighbour (R327). -/
def nbrReg (q : Side) : Nat := if q = .u then SL_NBR_U else SL_NBR_D

/-- The code that the fatal latch takes for a fatal cause (R343). -/
def fatalNo (c : FatalCode) : Nat :=
  match c with
  | .lane0 _ => 0x1002
  | .xloss => 0x1004
  | .keyarea => 0x1301
  | .hdinteg => 0x1701

/-- The host slot that the next start runs (SEC_BOOT.NEXTH). -/
def nextHost (d : Dev) : Fin 4 := if flag d bSEC SEC_BOOT 4 then 1 else 0

/-- The field slot that the next start runs (SEC_BOOT.NEXTF). -/
def nextField (d : Dev) : Fin 4 := if flag d bSEC SEC_BOOT 5 then 3 else 2

/-- An IMG request of an OP on a slot that does not run, with nothing to turn it away (R385, R387). -/
def AsksImage (d : Dev) (q : Side) (f : SlFrame) (op : Nat) : Prop :=
  Arrives d q f ∧ f.type.val = 0xD ∧ f.resp = false ∧ slTurned d f false true = none ∧ imgOp f = op ∧ f.payload ≠ [] ∧
  slotInUse d (imgSlot f) = false

/-- The register of a block reads its reset value. -/
def AtReset (d : Dev) (k : Blk) (off : Nat) : Prop := rd d k off = regDefault (regKey k off)

/-- `n` words of the waveform store of a bank, from word `i` on, lie inside it (R440). -/
def waveWords (i n : Nat) : Prop := 4 * i + 4 * n ≤ regionSize 1

/-- The address of word `i` of the waveform store of a bank (R440). -/
def waveAddr (b : Bank) (i : Nat) : Nat := bankMem b + 0x1000000 + 4 * i

/-! ### Events at an instant -/

/-- A field-side event can take place at instant `t` of the field clock. -/
def FieldCan (s : State) (t : TS) : Prop := s.dev.pwr.fup = true ∧ canBe (fieldNow s.dev) t = true

/-- A host-side event can take place at instant `t` of the host clock. -/
def HostCan (s : State) (t : TS) : Prop := canBe s.dev.tb.now t = true

/-! ### Autis -/

/-- The machine of channel `c` issues the instruction word `w` (R169, R173, R194): it may issue, its image and its word are good, and `w` lies at
its PC inside the body. -/
def Issues (s : State) (c : Chan) (w : Nat) : Prop :=
  canIssue s.dev c = true ∧ (ch s.dev c).mach.ecc = false ∧ (ch s.dev c).mach.pc < bodyLen s.dev c ∧
  progWord s.mem c.bank (bodyIndex s.dev c (ch s.dev c).mach.pc) = w ∧
  (bk s.dev c.bank).seq.eccWords.contains (bodyIndex s.dev c (ch s.dev c).mach.pc % 65536) = false

/-- The state at the instant at which an issued word acts: the machine's next issue slot, which it takes (R169, R181). -/
def issued (s : State) (c : Chan) (w : Nat) : State := { s with dev := slotTaken (toSlot s.dev c) c (slotsOf w) }

/-- The state with a machine's registers, flags and PC replaced and nothing else changed. -/
def withAlu (s : State) (c : Chan) (ws : Vector Word 16) (z n cf v : Bool) (pc : Nat) : State :=
  { s with dev := modMach s.dev c fun m => { m with w := ws, z := z, n := n, c := cf, v := v, pc := pc } }

/-- What an ALU instruction leaves (R181, R182): the result in Wd or pair d and every other register as it was, the flags Z and N of the
result, C and V as given, the PC past the instruction, and nothing else changed. -/
def AluLeaves (s t : State) (c : Chan) (w : Nat) (wide : Bool) (r : Nat) (carry overflow : Bool) : Prop :=
  (∃ ws, t = withAlu s c ws (decide (r = 0)) (decide (2 ^ (if wide then 63 else 31) ≤ r)) carry overflow ((ch s.dev c).mach.pc + 1)) ∧
  (if wide then wPair (ch t.dev c).mach (fD w) else (wReg (ch t.dev c).mach (fD w)).toNat) = r ∧
  ∀ k, k < 16 → k ≠ fD w → (wide = true → k ≠ fD w + 1) → wReg (ch t.dev c).mach k = wReg (ch s.dev c).mach k

/-- The width in bits of an ALU operation (R181). -/
def aluBits (w : Nat) : Nat := if fMod w 4 then 64 else 32

/-- Whether a signed number lies outside `n` bits. -/
def outside (n : Nat) (x : Int) : Bool := decide (x < -(2 ^ (n - 1) : Nat)) || decide (((2 ^ (n - 1) : Nat) : Int) ≤ x)

/-- The state with one channel's Autis machine changed and nothing else. -/
def withMach (s : State) (c : Chan) (f : Mach → Mach) : State := { s with dev := modMach s.dev c f }

/-- A step instruction has asked for its step (R186, R189): the machine is in STEP with its PC past the instruction, and the step waits for its
start with the set-up as it stands, or, while a step runs, the instruction waits for that step to end. -/
def StepAsked (s t : State) (c : Chan) (k : StepKind) : Prop :=
  (ch t.dev c).mach.st = .step ∧ (ch t.dev c).mach.pc = (ch s.dev c).mach.pc + 1 ∧
  match (ch s.dev c).mach.step with
  | some _ => (ch t.dev c).mach.queued = some k ∧ (ch t.dev c).mach.step = (ch s.dev c).mach.step
  | none => ∃ x, (ch t.dev c).mach.step = some x ∧ x.kind = k ∧ x.started = false ∧ x.setup = (ch s.dev c).mach.setup

/-- The machine fault of an Autis instruction (R194): the cause and the offset of the instruction latched, the machine in FAULT. -/
def Faulted (s t : State) (c : Chan) (cause : Nat) : Prop := t = { s with dev := machineFault s.dev c cause }

/-! ### Safe channels -/

/-- A channel is in its safe state (R101): it shows SAFE and does not drive. -/
def IsSafe (d : Dev) (c : Chan) : Prop := flag d (chBlk c) CH_STS 18 = true ∧ flag d (chBlk c) CH_STS 19 = false

/-- From `d`, a contained fault of channel `c` has led to `u` (R31, R334): CONT is set in the window that reports for it, and every member of
its group is safe. -/
def FaultSafe (d u : Dev) (c : Chan) : Prop := flag u (chBlk (leadOf d c)) FLT_STS 2 = true ∧ ∀ m ∈ members d c, IsSafe u m

/-! ### What stays the same -/

/-- Everything but one channel's Autis machine is unchanged. -/
def OnlyMach (s t : State) (c : Chan) : Prop :=
  t.mem = s.mem ∧ t.pending = s.pending ∧ ∃ m, t.dev = modMach s.dev c fun _ => m

/-- The commands that can store to bank memory or clear it (R11, R198, R229, R243, R408, R440): a write of any address through a port or a bus,
a crossing frame, which can let a held CMD frame act, a program word, an output record, and the starts, resets and switches that zero the
memories. Every other command leaves it alone. -/
def touchesMem (c : Instr) : Bool :=
  match c with
  | .regWrite .. | .aliasWrite .. | .mspWriteFrame .. | .mspChainFrame .. | .chainWriteHigh .. | .mspXdataAccess .. => true
  | .cmdFrame .. | .rspFrame .. | .recFrame .. | .strm .. | .fltFrame .. | .fatalFltFrame .. | .bootFrame .. | .hbFrame .. => true
  | .programWordWrite .. | .captureOutput .. | .regWr .. | .regBurst .. | .memWr .. | .switch .. => true
  | .hostStart .. | .resetAssert .. | .fieldPorRelease | .fieldRailLoss | .freboot .. => true
  | _ => false

/-- Every byte of bank memory reads as before. -/
def SameMem (s t : State) : Prop := ∀ a, t.mem.read a = s.mem.read a

end Sys2Proof.Machine
end

