-- ==== Sys2Proof/Certificates/Slice0/Obligations.lean ====
section
/-! DEFINITION. The statements about the block, by family of commands. -/

open Sys2Proof.Machine

open Sys2Proof

/-- ADD, SUB and CMP (R181, R182): result, flags and frame, for register, pair, immediate and live operands. -/
def Obligations.AluAddSubResults : Prop :=
  ∀ (s0 : State) (c : Chan) (w : Nat), Issues s0 c w →
    let s := issued s0 c w
    let n := aluBits w
    let a := srcA s.dev c w (fMod w 4)
    let b := srcB s.dev c w (fMod w 4)
    (fOp w = 0x12 → firstFault (aluFaults w true (fMod w 4)) = none →
      ∃ t, exec (.add c) s0 = .next t ∧
        AluLeaves s t c w (fMod w 4) ((a.1 + b) % 2 ^ n) (decide (2 ^ n ≤ a.1 + b)) (outside n (sx n a.1 + sx n b) || a.2)) ∧
    (fOp w = 0x13 → firstFault (aluFaults w true (fMod w 4)) = none →
      ∃ t, exec (.sub c) s0 = .next t ∧
        AluLeaves s t c w (fMod w 4) ((a.1 + (2 ^ n - b)) % 2 ^ n) (decide (a.1 < b)) (outside n (sx n a.1 - sx n b) || a.2)) ∧
    (fOp w = 0x16 → firstFault (aluFaults w true false) = none →
      ∃ t z m cf v, exec (.cmp c) s0 = .next t ∧
        t = withAlu s c (ch s.dev c).mach.w z m cf v ((ch s.dev c).mach.pc + 1) ∧
        z = decide (a.1 = b) ∧ cf = decide (a.1 < b) ∧ (a.2 = false → (m != v) = decide (sx n a.1 < sx n b)))

/-- MUL (R181, R182). -/
def Obligations.AluProductResults : Prop :=
  ∀ (s0 : State) (c : Chan) (w : Nat), Issues s0 c w →
    let s := issued s0 c w
    let n := aluBits w
    let a := srcA s.dev c w (fMod w 4)
    (fOp w = 0x14 → firstFault (aluFaults w true (fMod w 4 || fMod w 0)) = none →
      let b := srcB s.dev c w (fMod w 4)
      let k := if fMod w 4 || fMod w 0 then 64 else 32
      ∃ t, exec (.mul c) s0 = .next t ∧
        AluLeaves s t c w (fMod w 4 || fMod w 0) ((sx n a.1 * sx n b) % (2 ^ k : Nat)).toNat false (outside k (sx n a.1 * sx n b) || a.2))

/-- MULQ (R183). -/
def Obligations.MulqRoundsAndSaturates : Prop :=
  ∀ (s0 : State) (c : Chan) (w : Nat), Issues s0 c w → fOp w = 0x15 → firstFault (aluFaults w false (fMod w 4)) = none →
    let s := issued s0 c w
    let m := (ch s.dev c).mach
    let n := aluBits w
    let live := srcA s.dev c w (fMod w 4)
    let a : Int := if fMod w 3 then sx n live.1 else if fMod w 4 then sx 64 (wPair m (fA w)) else (wReg m (fA w)).toInt
    let b : Int := if fMod w 5 then sx 32 (fImm w 31 0) else (wReg m (fB w)).toInt
    let f := if fImm w 36 32 = 0 then 16 else fImm w 36 32
    let q := (a * b + (2 ^ (f - 1) : Nat)) / ((2 ^ f : Nat) : Int)
    let h : Int := 2 ^ (n - 1)
    let r : Int := max (-h) (min (h - 1) q)
    ∃ t, exec (.mulq c) s0 = .next t ∧
      AluLeaves s t c w (fMod w 4) (r % (2 ^ n : Nat)).toNat false (outside n q || (fMod w 3 && live.2))

/-- MIN, MAX, ABS, AND, OR and XOR (R181, R182). -/
def Obligations.AluLogicResults : Prop :=
  ∀ (s0 : State) (c : Chan) (w : Nat), Issues s0 c w →
    let s := issued s0 c w
    let n := aluBits w
    let a := srcA s.dev c w (fMod w 4)
    let b := srcB s.dev c w (fMod w 4)
    (firstFault (aluFaults w true (fMod w 4)) = none →
      (fOp w = 0x17 → ∃ t, exec (.min c) s0 = .next t ∧
        AluLeaves s t c w (fMod w 4) (if sx n a.1 ≤ sx n b then a.1 else b) false a.2) ∧
      (fOp w = 0x18 → ∃ t, exec (.max c) s0 = .next t ∧
        AluLeaves s t c w (fMod w 4) (if sx n a.1 ≤ sx n b then b else a.1) false a.2) ∧
      (fOp w = 0x1A → ∃ t, exec (.and c) s0 = .next t ∧ AluLeaves s t c w (fMod w 4) (a.1 &&& b) false a.2) ∧
      (fOp w = 0x1B → ∃ t, exec (.or c) s0 = .next t ∧ AluLeaves s t c w (fMod w 4) (a.1 ||| b) false a.2) ∧
      (fOp w = 0x1C → ∃ t, exec (.xor c) s0 = .next t ∧ AluLeaves s t c w (fMod w 4) (a.1 ^^^ b) false a.2)) ∧
    (fOp w = 0x19 → firstFault (aluFaults w false (fMod w 4)) = none →
      ∃ t, exec (.abs c) s0 = .next t ∧
        AluLeaves s t c w (fMod w 4) (min (sx n a.1).natAbs (2 ^ (n - 1) - 1)) false (decide ((sx n a.1).natAbs = 2 ^ (n - 1)) || a.2))

/-- MOV, LDI, SHL and SHR (R181, R182). -/
def Obligations.AluMoveShiftResults : Prop :=
  ∀ (s0 : State) (c : Chan) (w : Nat), Issues s0 c w →
    let s := issued s0 c w
    let n := aluBits w
    let m := (ch s.dev c).mach
    let a := srcA s.dev c w (fMod w 4)
    let k := if fMod w 5 then fImm w 5 0 else (wReg m (fB w)).toNat % 64
    (firstFault (aluFaults w false (fMod w 4)) = none →
      (fOp w = 0x10 → ∃ t, exec (.mov c) s0 = .next t ∧ AluLeaves s t c w (fMod w 4) a.1 m.c a.2) ∧
      (fOp w = 0x1D → ∃ t, exec (.shl c) s0 = .next t ∧
        AluLeaves s t c w (fMod w 4) (a.1 * 2 ^ k % 2 ^ n) (decide (0 < k ∧ k ≤ n) && a.1.testBit (n - k)) a.2) ∧
      (fOp w = 0x1E → fMod w 0 = false → ∃ t, exec (.shr c) s0 = .next t ∧
        AluLeaves s t c w (fMod w 4) (a.1 / 2 ^ k) (decide (0 < k) && a.1.testBit (k - 1)) a.2) ∧
      (fOp w = 0x1E → fMod w 0 = true → ∃ t, exec (.shr c) s0 = .next t ∧
        AluLeaves s t c w (fMod w 4) ((sx n a.1 / (2 ^ k : Nat)) % (2 ^ n : Nat)).toNat
          (decide (0 < k) && decide (sx n a.1 / (2 ^ (k - 1) : Nat) % 2 = 1)) a.2)) ∧
    (fOp w = 0x11 → (fMod w 4 = true → fD w % 2 = 0) → ∃ t, exec (.ldi c) s0 = .next t ∧
      AluLeaves s t c w (fMod w 4) (if fMod w 4 then (sx 40 w % (2 ^ 64 : Nat)).toNat else fImm w 31 0) m.c m.v)

/-- The control-flow instructions (R174 to R179), and a taken branch while a successor is provisional (R219). -/
def Obligations.AutisJumpsAndStacks : Prop :=
  (∀ (s0 : State) (c : Chan) (w : Nat), Issues s0 c w →
      let s := issued s0 c w
      let m := (ch s.dev c).mach
      let imm := fImm w 15 0
      let target := if fMod w 5 then (wReg m (fA w)).toNat % 65536 else imm
      let count := if fMod w 5 then (wReg m (fA w)).toNat else fImm w 39 16
      (fOp w = 0x00 → exec (.nop c) s0 = .next (withMach s c fun m => { m with pc := m.pc + 1 })) ∧
      (fOp w = 0x01 → target < bodyLen s.dev c → exec (.jmp c) s0 = .next (withMach s c fun m => { m with pc := target })) ∧
      (fOp w = 0x02 → condExists (condCode w) = true → imm < bodyLen s.dev c → m.provs = [] →
        let holds := if condCode w ≤ 5 then condFlags m (condCode w) else condSnap m.snap (condCode w)
        exec (.jcc c) s0 = .next (withMach s c fun m => { m with pc := if holds != fMod w 2 then imm else m.pc + 1 })) ∧
      (fOp w = 0x03 → condExists (condCode w) = true → 5 < condCode w → imm < bodyLen s.dev c → m.provs = [] →
        let holds := condSnap m.snap (condCode w)
        exec (.bev c) s0 = .next (withMach s c fun m =>
          if holds != fMod w 2 then { (if holds then clearCond m (condCode w) else m) with pc := imm } else { m with pc := m.pc + 1 })) ∧
      (fOp w = 0x04 → target < bodyLen s.dev c → m.calls.length < 8 →
        exec (.call c) s0 = .next (withMach s c fun m => { m with calls := (m.pc + 1) :: m.calls, pc := target })) ∧
      (∀ a r, fOp w = 0x05 → m.calls = a :: r → exec (.ret c) s0 = .next (withMach s c fun m => { m with calls := r, pc := a })) ∧
      (fOp w = 0x06 → imm < bodyLen s.dev c → 0 < count → m.loops.length < 4 →
        exec (.loop c) s0 = .next (withMach s c fun m => { m with loops := (m.pc + 1, count) :: m.loops, pc := m.pc + 1 })) ∧
      (fOp w = 0x06 → imm < bodyLen s.dev c → count = 0 → exec (.loop c) s0 = .next (withMach s c fun m => { m with pc := imm })) ∧
      (∀ a n r, fOp w = 0x07 → m.loops = (a, n + 1) :: r → exec (.endl c) s0 = .next (withMach s c fun m =>
        if n = 0 then { m with loops := r, pc := m.pc + 1 } else { m with loops := (a, n) :: r, pc := a }))) ∧
  (∀ (s0 : State) (c : Chan) (w : Nat) (i : Instr) (st : Step) (p : Prov) (r : List Prov), Issues s0 c w →
      let s := issued s0 c w
      let m := (ch s.dev c).mach
      m.step = some st → st.started = true → m.provs = p :: r → s.dev.tb.mono < p.tick.at_ + succLag → st.startMono ≤ p.tick.at_ →
      fImm w 15 0 < bodyLen s.dev c → condExists (condCode w) = true → 5 < condCode w → condSnap m.snap (condCode w) != fMod w 2 →
      (i = .jcc c ∧ fOp w = 0x02) ∨ (i = .bev c ∧ fOp w = 0x03) →
      ∃ t, exec i s0 = .next t ∧
        (ch t.dev c).mach.playing = none ∧ (ch t.dev c).mach.queue = [] ∧ (ch t.dev c).mach.replaced = some p ∧
        (ch t.dev c).mach.provs = [] ∧ (ch t.dev c).mach.fifo = ((p :: r).map fun x => x.used).flatten ++ m.fifo ∧
        (ch t.dev c).mach.pidx = p.pidx ∧ (ch t.dev c).mach.playLast = p.last ∧
        (∀ x ∈ (ch t.dev c).mach.lead, x.1 < p.tick.at_ + playLead) ∧ (ch t.dev c).mach.pc = fImm w 15 0)

/-- Waits for an instant, HALT, FAULT, the reserved operation codes (R173, R179, R188) and the group barrier (R180). -/
def Obligations.AutisWaitsAndBarrier : Prop :=
  (∀ (s0 : State) (c : Chan) (w : Nat), Issues s0 c w →
    let s := issued s0 c w
    let m := (ch s.dev c).mach
    let now := fieldNow s.dev
    let line := ltOf s.dev now
    let toLt := if fMod w 0 then ((line / 65536 + fImm w 39 16) * 65536 + fImm w 15 0) % 2 ^ 64 else wPair m (fA w)
    let toTs : TS := if fMod w 0 then tsAdd now ((fImm w 39 0 * tapsPerUs : Nat) : Int) else BitVec.ofNat 64 (wPair m (fA w))
    let ahead (x : TS) : Prop := tsDiff now x < 10240 ∧ 0 < tsDiff (tsOfPeriods (gridUp s.dev x 64)) now
    (fOp w = 0x08 → (fMod w 0 = false → fA w % 2 = 0) →
      let passed := decide (toLt < line)
      (passed = false ∨ ahead (tsOfTaps (ltInstant s.dev toLt)) →
        exec (.waitl c) s0 = .next (withMach s c fun m => { m with st := .wait, wait := .untilLt toLt, c := passed, pc := m.pc + 1 })) ∧
      (passed = true ∧ ¬ahead (tsOfTaps (ltInstant s.dev toLt)) →
        exec (.waitl c) s0 = .next (withMach s c fun m => { m with c := true, pc := m.pc + 1 }))) ∧
    (fOp w = 0x09 → (fMod w 0 = false → fA w % 2 = 0) → tsValid toTs = true →
      let passed := decide (tsDiff toTs now < 0)
      (passed = false ∨ ahead toTs →
        exec (.waitt c) s0 = .next (withMach s c fun m => { m with st := .wait, wait := .untilTime toTs.toNat, c := passed, pc := m.pc + 1 })) ∧
      (passed = true ∧ ¬ahead toTs → exec (.waitt c) s0 = .next (withMach s c fun m => { m with c := true, pc := m.pc + 1 }))) ∧
    (fOp w = 0x0B → ∃ t, exec (.halt c) s0 = .next t ∧ (ch t.dev c).mach.st = .halt ∧ fld t.dev (chBlk c) CH_APC 31 16 = fImm w 15 0) ∧
    (fOp w = 0x3F → exec (.fault c) s0 =
      .next { s with dev := machineFault (setFld s.dev (chBlk c) CH_APC 31 16 (fImm w 15 0)) c 12 }) ∧
    (opReserved w = true → ∃ t, exec (.reservedOp c) s0 = .next t ∧ Faulted s t c 1)) ∧
  (∀ (s : State) (c : Chan) (t : TS), FieldCan s t →
    let d := fieldAt s.dev t
    onGrid d (fieldNow d) 64 = true → (ch d c).mach.st = .wait →
    ((∃ x : TS, (ch d c).mach.wait = .untilTime x.toNat ∧ 0 ≤ tsDiff (fieldNow d) x) ∨
      (∃ lt, (ch d c).mach.wait = .untilLt lt ∧ 0 ≤ tsDiff (fieldNow d) (tsOfTaps (ltInstant d lt)))) →
      exec (.waitTargetReached c t) s = .next { s with dev := modMach d c resumed }) ∧
  (∀ (s0 : State) (c : Chan) (w : Nat), Issues s0 c w → fOp w = 0x0A →
    let s := issued s0 c w
    let mask := fImm w 23 0 ||| 2 ^ c.inBank
    ((∀ x ∈ maskChans c.bank mask, x ≠ c → syncDead s.dev x = false) →
      exec (.syncg c) s0 = .next (withMach s c fun m =>
        { m with st := .wait, pc := m.pc + 1,
                 wait := .sync mask (if fImm w 31 24 = 0 then none else some (s.dev.tb.mono + fImm w 31 24 * 100000 * tapsPerUs)) })) ∧
    ((∃ x ∈ maskChans c.bank mask, x ≠ c ∧ syncDead s.dev x = true) →
      ∃ t, exec (.syncg c) s0 = .next t ∧ (ch t.dev c).mach.wait = .none ∧ (ch t.dev c).mach.st ≠ .wait ∧ (ch t.dev c).mach.v = true)) ∧
  (∀ (s : State) (c : Chan) (t : TS) (mask : Nat) (dl : Option Nat), FieldCan s t →
    let d := fieldAt s.dev t
    (ch d c).mach.wait = .sync mask dl → (∀ x ∈ maskChans c.bank mask, syncDead d x = false ∧ syncWaits d x mask = true ∧ (ch d x).mach.slotFrom ≤ d.tb.mono) →
    onGrid d (fieldNow d) 64 = true →
      ∃ u, exec (.syncgRelease c t) s = .next u ∧
        (∀ x ∈ maskChans c.bank mask, (ch u.dev x).mach = { resumed (ch d x).mach with v := false }) ∧
        ∀ x, x ∉ maskChans c.bank mask → ch u.dev x = ch d x) ∧
  (∀ (s : State) (c : Chan) (t : TS) (mask dl : Nat), FieldCan s t →
    let d := fieldAt s.dev t
    (ch d c).mach.wait = .sync mask (some dl) → dl ≤ d.tb.mono →
      ∃ u, exec (.syncgTimeout c t) s = .next u ∧
        ∀ x ∈ maskChans c.bank mask, syncWaits d x mask = true → (ch u.dev x).mach = { resumed (ch d x).mach with v := true })

/-- The step instructions (R184, R186, R188, R189). -/
def Obligations.StepInstructionsAsk : Prop :=
  ∀ (s0 : State) (c : Chan) (w : Nat), Issues s0 c w →
    let s := issued s0 c w
    let m := (ch s.dev c).mach
    let v := (val32 s.dev c w).toInt
    (fOp w = 0x20 → fMods w 2 0 < 5 → (fMods w 2 0 = 3 → 0 < v) → driveFault s.dev c (.force (fMods w 2 0) v) = none →
      ∃ t, exec (.force c) s0 = .next t ∧ StepAsked s t c (.force (fMods w 2 0) v)) ∧
    (∀ dur, fOp w = 0x21 → fMods w 2 0 < 3 → dur = (wReg m (fB w)).toNat → 0 < dur → driveFault s.dev c (.ramp (fMods w 2 0) v dur) = none →
      ∃ t, exec (.ramp c) s0 = .next t ∧ StepAsked s t c (.ramp (fMods w 2 0) v dur)) ∧
    (fOp w = 0x22 → driveFault s.dev c .hold = none → ∃ t, exec (.hold c) s0 = .next t ∧ StepAsked s t c .hold) ∧
    (fOp w = 0x23 → ∃ t, exec (.rest c) s0 = .next t ∧ StepAsked s t c .rest) ∧
    (∀ p : Fin 16, fOp w = 0x3C → fMod w 0 = false → p.val = fImm w 3 0 → bit (eisReg s.dev c.bank p.val EIS_CFG0) 31 = true →
      driveFault s.dev c (.eis p) = none → ∃ t, exec (.eis c) s0 = .next t ∧ StepAsked s t c (.eis p)) ∧
    (∀ q : Fin 16, fOp w = 0x3C → fMod w 0 = true → q.val = fImm w 3 0 → fD w % 2 = 0 → bit (plsReg s.dev c.bank q.val PLS_CFG) 31 = true →
      let k := StepKind.pulse (fD w) (wReg m (fA w)).toInt (wReg m (fB w)).toNat q
      driveFault s.dev c k = none → ∃ t, exec (.pulse c) s0 = .next t ∧ StepAsked s t c k)

/-- LIMIT, UNTIL, LEDGER and SEGM (R184, R185, R187). -/
def Obligations.StepSetupInstructions : Prop :=
  ∀ (s0 : State) (c : Chan) (w : Nat), Issues s0 c w →
    let s := issued s0 c w
    let m := (ch s.dev c).mach
    let v := val32 s.dev c w
    let long : Int := if fMod w 5 then sx 64 (wPair m (fA w)) else (fImm w 39 0 : Nat)
    let sets (f : Setup → Setup) : State := withMach s c fun m => { m with setup := f m.setup, pc := m.pc + 1 }
    (fOp w = 0x24 → fMods w 3 0 = 0 → exec (.limit c) s0 = .next (sets fun u => { u with vmin := some v.toInt })) ∧
    (fOp w = 0x24 → fMods w 3 0 = 1 → exec (.limit c) s0 = .next (sets fun u => { u with vmax := some v.toInt })) ∧
    (fOp w = 0x24 → fMods w 3 0 = 2 → exec (.limit c) s0 = .next (sets fun u => { u with ilim := some v.toNat })) ∧
    (fOp w = 0x24 → fMods w 3 0 = 3 → exec (.limit c) s0 = .next (sets fun u => { u with plim := some v.toNat })) ∧
    (fOp w = 0x24 → (fMod w 5 = true → fA w % 2 = 0) → 0 ≤ long → long < 2 ^ 40 →
      (fMods w 3 0 = 4 → exec (.limit c) s0 = .next (sets fun u => { u with time := long.toNat })) ∧
      (fMods w 3 0 = 5 → exec (.limit c) s0 = .next (sets fun u => { u with charge := long.toNat }))) ∧
    (fOp w = 0x25 → m.setup.untils.length < 8 →
      (fMod w 5 = false → condExists (condCode w) = true → 5 < condCode w →
        exec (.untilCond c) s0 = .next (sets fun u => { u with untils := u.untils ++ [.event (condCode w) (fMod w 2)] })) ∧
      (fMod w 5 = true → fD w < 12 → fB w < 4 → (fMod w 4 = true → opWide (fD w) = true → fA w % 2 = 0) →
        exec (.untilCond c) s0 = .next (sets fun u => { u with untils := u.untils ++ [.level (fD w) (fB w) (fMod w 3) (untilThr s.dev c w)] }))) ∧
    (fOp w = 0x26 → exec (.ledger c) s0 = .next (sets fun u => { u with decl := some v.toInt, defLim := fImm w 39 32 })) ∧
    (fOp w = 0x32 → exec (.segm c) s0 = .next (withMach s c fun m => { m with segm := some (fImm w 15 0, s.dev.tb.mono), pc := m.pc + 1 }))

/-- PLAY, STREAM and the wait for room (R187, R208, R213). -/
def Obligations.WaveformInstructions : Prop :=
  ∀ (s0 : State) (c : Chan) (w : Nat) (i : PlayItem) (cmd : Instr),
    let asks (s : State) : Prop :=
      let m := (ch s.dev c).mach
      let seg := if fMod w 5 then (wReg m (fA w)).toNat % 4096 else fImm w 11 0
      ((cmd = .play c ∧ fOp w = 0x30 ∧ segItem s.mem s.dev c.bank seg (fImm w 31 16 + 1) = some i) ∨
        (cmd = .stream c ∧ fOp w = 0x31 ∧ fImm w 39 32 < 16 ∧ fMods w 1 0 < 3 ∧
          i = { stream := true, seg := 0xFFF, timer := fImm w 39 32, qty := fMods w 1 0, start := 0, len := fImm w 31 0, scale := 0, ofs := 0,
                reps := 1, abort := fMod w 2, done := 0 })) ∧
      bit (timerReg s.dev c.bank i.timer) 31 = true ∧ m.provs = [] ∧ m.replaced = none
    (Issues s0 c w →
      let s := issued s0 c w
      let m := (ch s.dev c).mach
      asks s →
      (m.step = none →
        driveFault (modMach s.dev c fun k => { k with playing := some i, queue := [], replaced := none, itemAt := none, playLast := 0 }) c .wave
          = none →
        ∃ t, exec cmd s0 = .next t ∧ StepAsked s t c .wave ∧ (ch t.dev c).mach.playing = some i ∧ (ch t.dev c).mach.queue = []) ∧
      (∀ st, m.step = some st → st.mode = i.qty →
        (m.queue = [] → exec cmd s0 = .next (withMach s c fun k => { k with queue := [i], pc := k.pc + 1 })) ∧
        (m.queue ≠ [] → exec cmd s0 = .next (withMach s c fun k => { k with st := .wait, wait := .room })))) ∧
    ((ch s0.dev c).mach.wait = .room → (ch s0.dev c).mach.queue = [] → Issues (withMach s0 c resumed) c w →
      let s := issued (withMach s0 c resumed) c w
      asks s → ∀ st, (ch s.dev c).mach.step = some st → st.mode = i.qty →
        exec (.queueRoom c) s0 = .next (withMach s c fun k => { k with queue := [i], pc := k.pc + 1 }))

/-- MEAS and SNAP and what ends them (R188). -/
def Obligations.MeasureInstructions : Prop :=
  (∀ (s0 : State) (c : Chan) (w : Nat), Issues s0 c w →
    let s := issued s0 c w
    (fOp w = 0x38 → fMods w 2 0 < 4 → fD w % 2 = 0 → ∃ t, exec (.meas c) s0 = .next t ∧ (ch t.dev c).mach.st = .wait ∧
      (ch t.dev c).mach.wait = .meas (fD w) (fMods w 2 0) (if fImm w 6 0 = 0 then 1 else if 100 < fImm w 6 0 then 100 else fImm w 6 0) ∧
      (ch t.dev c).mach.pc = (ch s.dev c).mach.pc + 1 ∧ (ch t.dev c).meas.lineInt = none ∧ (ch t.dev c).meas.lineRes = none) ∧
    (fOp w = 0x39 → fD w % 2 = 0 → exec (.snap c) s0 = .next (withMach s c fun m =>
      { m with st := .wait, wait := .snap (fD w), pc := m.pc + 1, snapOut := none }))) ∧
  (∀ (s : State) (c : Chan) (dst : Nat) (v i : Word), (ch s.dev c).mach.wait = .snap dst → (ch s.dev c).mach.snapOut = some (v, i) → dst < 15 →
    ∃ t, exec (.snapDone c) s = .next t ∧ (ch t.dev c).mach.st = (if (ch s.dev c).mach.step.isSome then .step else .run) ∧
      (ch t.dev c).mach.wait = .none ∧ wReg (ch t.dev c).mach dst = v ∧ wReg (ch t.dev c).mach (dst + 1) = i) ∧
  (∀ (s : State) (c : Chan) (t : TS) (dst q n : Nat) (r : LineRes), FieldCan s t →
    let d := fieldAt s.dev t
    (ch d c).mach.wait = .meas dst q n → (ch d c).meas.lineRes = some r → dst < 16 → dst % 2 = 0 →
    let ovr := r.fl.testBit 8 || (decide (2 ≤ q) && (ch d c).meas.ovrI)
    let x : Int :=
      if q = 0 then (meanUnits d r.sv r.n).1
      else if noShunt d c then 0
      else if q = 1 then (meanUnits d r.si r.n).1 else if q = 2 then r.dq / 100000 else r.de / 400000000000000
    ∃ u, exec (.measDone c t) s = .next u ∧ (ch u.dev c).mach.st = (if (ch d c).mach.step.isSome then .step else .run) ∧
      (ch u.dev c).mach.wait = .none ∧ (ch u.dev c).meas.lineRes = none ∧
      (2 ≤ q → (wPair (ch u.dev c).mach dst : Int) = x % (2 ^ 64 : Nat)) ∧ (q < 2 → wReg (ch u.dev c).mach dst = satWord x) ∧
      (ch u.dev c).mach.z = decide (x = 0) ∧ (ch u.dev c).mach.n = decide (x < 0) ∧
      (ch u.dev c).mach.v = (r.fl.testBit 4 || r.fl.testBit 5 || r.fl.testBit 7 || ovr || r.fl.testBit 0))

/-- ARM, TRIGC, MOULD, SIG, POST and SEAL (R188). -/
def Obligations.TriggerAndMouldInstructions : Prop :=
  ∀ (s0 : State) (c : Chan) (w : Nat), Issues s0 c w →
    let s := issued s0 c w
    let m := (ch s.dev c).mach
    let pre := (wReg m (fA w)).toNat
    let post := max 1 (wReg m (fB w)).toNat
    let mm : Fin 16 := ⟨fImm w 3 0 % 16, Nat.mod_lt _ (by decide)⟩
    let slotPut (x : Option TrigSlot) : State :=
      { s with dev := nextPc (modCap s.dev c fun k => { k with slots := k.slots.set (fImm w 9 8) x }) c }
    (fOp w = 0x3A → fMod w 0 = false → fImm w 3 0 < 10 → (∀ x ∈ members s.dev c, 0 < capPages s.dev x ∧ pre + post ≤ capCap s.dev x) →
      ∃ t, exec (.arm c) s0 = .next t ∧ (ch t.dev c).mach.trg = false ∧ (ch t.dev c).mach.pc = m.pc + 1 ∧
        ∀ x ∈ members s.dev c, (ch t.dev x).cap.armAt = some (nextMod s.dev) ∧ (ch t.dev x).cap.pre = pre ∧ (ch t.dev x).cap.post = post ∧
          (ch t.dev x).cap.group = fImm w 3 0 ∧ (ch t.dev x).cap.slgrp = fImm w 15 8 ∧ (ch t.dev x).cap.master = fMod w 1) ∧
    (fOp w = 0x3A → fMod w 0 = true → fImm w 12 12 = 1 → exec (.trigc c) s0 = .next (slotPut none)) ∧
    (∀ kind op, fOp w = 0x3A → fMod w 0 = true → fImm w 12 12 = 0 → kind = fImm w 2 0 → op = fImm w 7 4 → kind < 6 →
      trigOperand kind op = true → (kind ≠ 3 → kind ≠ 5 → op < 12) → (kind = 5 → condExists (fImm w 21 16) = true ∧ 5 < fImm w 21 16) →
      (kind = 4 → fA w % 2 = 0) → (kind = 2 → (wReg m (fA w)).toInt ≤ (wReg m (fB w)).toInt) →
      exec (.trigc c) s0 = .next (slotPut (some
        { kind := kind, op := op,
          wa := if kind = 4 then sx 64 (wPair m (fA w)) else if kind = 3 then ((wReg m (fA w)).toNat : Int)
                else if kind = 1 then ((wReg m (fA w)).toInt.natAbs : Int) else (wReg m (fA w)).toInt,
          wb := if kind = 0 then max 0 (wReg m (fB w)).toInt else (wReg m (fB w)).toInt,
          edge := if fImm w 11 10 = 0 then 3 else fImm w 11 10, code := fImm w 21 16 }))) ∧
    (∀ l, fOp w = 0x3B → fMods w 1 0 ≠ 3 → bit (mldReg s.dev c.bank mm.val) 31 = true →
      (fMod w 2 = false →
        (fMods w 1 0 = 2 → fImm w 31 16 < bodyLen s.dev c) ∧ bindPut m.setup.binds ⟨mm, fMods w 1 0, fImm w 31 16⟩ = some l) →
      (fMod w 2 = true → l = m.setup.binds.map fun o => if o.any (fun y => decide (y.mould = mm)) then none else o) →
      ∃ t, exec (.mould c) s0 = .next t ∧ (ch t.dev c).mach.setup.binds = l ∧ rd t.dev (bankOf c .mld) (MLD_BIND + 4 * c.inBank) = bindWord l ∧
        (ch t.dev c).mach.pc = m.pc + 1) ∧
    (fOp w = 0x3D → fImm w 3 0 < 10 → exec (.sig c) s0 = .next (withMach s c fun m =>
      let r : SigReq := { target := fImm w 3 0, group := fImm w 15 8, action := fMods w 1 0 }
      if r.action = 1 then { m with sigItem := m.sigItem ++ [r], pc := m.pc + 1 } else { m with sigs := m.sigs ++ [r], pc := m.pc + 1 })) ∧
    (fOp w = 0x3E → fMod w 0 = false →
      exec (.post c) s0 = .next { s with dev := nextPc (modMeas s.dev c fun k => { k with posts := k.posts ++ [s.dev.tb.mono] }) c }) ∧
    (fOp w = 0x3E → fMod w 0 = true → coloSealRoom s.dev c = true →
      exec (.sealColophon c) s0 = .next { s with dev := nextPc (coloSeal s.mem s.dev c) c }) ∧
    (fOp w = 0x3E → fMod w 0 = true → coloSealRoom s.dev c = false →
      exec (.sealColophon c) s0 = .next (withMach s c fun m => { m with st := .wait, wait := .sealing }))

/-- The events at a channel's boundaries (R178, R189, R190, R202, R221, R231). -/
def Obligations.StepEventsTakeEffect : Prop :=
  ∀ (s : State) (c : Chan) (t : TS),
    (FieldCan s t →
      let d := fieldAt s.dev t
      let m := (ch d c).mach
      (∀ x, m.step = some x → x.started = false → x.kind ≠ .wave → x.asked < d.tb.mono → ctlBoundary d c = true → (ledgerAdmit d c 0).1 = true →
        (∀ p, x.kind ≠ .eis p) → (∀ a b e q, x.kind ≠ .pulse a b e q) →
        ∃ u y, exec (.stepStart c t) s = .next u ∧ (ch u.dev c).mach.step = some y ∧ y.started = true ∧ y.kind = x.kind ∧
          y.setup = m.setup ∧ y.startTs = fieldNow d ∧ (ch u.dev c).mach.counter = (m.counter + 1) % 65536 ∧
          (ch u.dev c).mach.setup = { m.setup with time := 0, charge := 0, untils := [], decl := none, defLim := 0 }) ∧
      (∀ x, m.step = some x → x.started = false → x.kind ≠ .wave → x.asked < d.tb.mono → ctlBoundary d c = true → (ledgerAdmit d c 0).1 = true →
        exec (.stepStart c t) s = .next { s with dev := startStep (ledgerAdmit d c 0).2 c }) ∧
      (ctlBoundary d c = true → ∃ u, exec (.controlSampleBoundary c t) s = .next u ∧ (ch u.dev c).mach.snap = takeSnapshot d c) ∧
      (∀ x e, m.step = some x → x.ending = some e → m.queued = none → ctlBoundary d c = true →
        ∃ u, exec (.stepEnd c t) s = .next u ∧ (ch u.dev c).mach.step = none ∧ (ch u.dev c).mach.playing = none ∧
          (ch u.dev c).mach.queue = [] ∧ (ch u.dev c).mach.counter = (if x.started then m.counter else (m.counter + 1) % 65536)) ∧
      (∀ r : SigReq, ∀ h : r.target < 8, m.sigs = [r] → m.sigItem = [] → r.action = 0 → ctlBoundary d c = true →
        ∃ u, exec (.sigEmit c t) s = .next u ∧ (ch u.dev c).mach.sigs = [] ∧ u.dev.gtPulse.get ⟨r.target, h⟩ = d.tb.mono + 40960) ∧
      (∀ r : SigReq, r.target = 8 → m.sigs = [r] → m.sigItem = [] → r.action = 0 → ctlBoundary d c = true →
        ∃ u, exec (.sigEmit c t) s = .next u ∧ (ch u.dev c).mach.sigs = [] ∧
          ∀ x, d.tb.mono + 2 * tapsPerUs ≤ x → x < d.tb.mono + 2 * tapsPerUs + 10240 → trigOutHigh u.dev x = true) ∧
      ((ch d c).cap.armAt = some d.tb.mono → (ch d c).cap.group = 0 →
        ∃ u, exec (.armInstant c t) s = .next u ∧ (ch u.dev c).cap.st = .armed ∧ (ch u.dev c).cap.anchor = none ∧
          (ch u.dev c).cap.ign = 0 ∧ (ch u.dev c).cap.armAt = none)) ∧
    ((ch s.dev c).mach.wait = .sealing → coloSealRoom s.dev c = true →
      ∃ u, exec (.sealSpoolSpace c) s = .next u ∧ (ch u.dev c).mach.st = (if (ch s.dev c).mach.step.isSome then .step else .run) ∧ (ch u.dev c).mach.wait = .none)

/-- Machine commands through the ports (R176, R199, R200). -/
def Obligations.MachineCommandsTakeEffect : Prop :=
  ∀ (s : State) (p : Port) (c : Chan), isFollower s.dev c = false → (∀ k, schFind s.dev c k 160 = none) →
    let m := (ch s.dev c).mach
    (Serves s true (chBlk c) CH_ACTL →
      (∀ v : Word, bits v 3 0 = 1 → startCause s.dev c (bits v 10 7) (bits v 15 11) = 0 →
        ∃ t r, exec (.start p c v) s = .next t ∧ (ch t.dev c).mach.startReq = some r ∧ bits r 10 7 = bits v 10 7 ∧ bits r 15 11 = bits v 15 11) ∧
      (∀ v : Word, bits v 3 0 = 1 → startCause s.dev c (bits v 10 7) (bits v 15 11) ≠ 0 →
        ∃ t, exec (.start p c v) s = .next t ∧ (ch t.dev c).mach = m ∧
          fld t.dev (chBlk c) CH_ASTS 20 17 = startCause s.dev c (bits v 10 7) (bits v 15 11)) ∧
      (m.st = .run ∨ m.st = .step ∨ m.st = .wait → fOp (pcWord s.mem s.dev c) ≠ 0x0B → fOp (pcWord s.mem s.dev c) ≠ 0x3F →
        ∃ t, exec (.stop p c) s = .next t ∧ (ch t.dev c).mach.st = .halt ∧ (ch t.dev c).mach.wait = .none ∧
          (ch t.dev c).mach.queued = none ∧ fld t.dev (chBlk c) CH_APC 31 16 = 0xFFFF) ∧
      (∀ x, m.step = some x → reqOf s.dev.led.queue c = none → reqOf s.dev.led.expired c = none →
        ∃ t, exec (.abort p c) s = .next t ∧ (ch t.dev c).mach = { m with abortReq := x.started }) ∧
      (m.st = .fault ∨ m.st = .halt ∨ m.st = .safehalt → m.startReq = none →
        ∃ t, exec (.clear p c) s = .next t ∧ (ch t.dev c).mach = { m with st := .idle })) ∧
    (∀ ev : Byte, Serves s true (chBlk c) CH_AEV →
      ∃ t, exec (.nudge p c ev) s = .next t ∧ (ch t.dev c).mach = { m with ev := m.ev ||| ev.toNat, condBef := some (s.dev.tb.mono, pendBefore s.dev m) })

/-- START_EFFECT (R186, R199). -/
def Obligations.StartEffectSetsMachine : Prop :=
  ∀ (s : State) (c : Chan) (v : Word), (ch s.dev c).mach.startReq = some v →
    let d := toSlot s.dev c
    ∃ t, exec (.startEffect c) s = .next t ∧
      (ch t.dev c).mach.st = .run ∧ (ch t.dev c).mach.startReq = none ∧
      (ch t.dev c).mach.pc = progWord s.mem c.bank (slotBase d c.bank (bits v 10 7) + 16 + bits v 15 11) % 65536 ∧
      (∀ k, k < 16 → wReg (ch t.dev c).mach k = if k < 8 then rd d (chBlk c) (CH_APAR + 4 * k) else 0) ∧
      (ch t.dev c).mach.z = false ∧ (ch t.dev c).mach.n = false ∧ (ch t.dev c).mach.c = false ∧ (ch t.dev c).mach.v = false ∧
      (ch t.dev c).mach.calls = [] ∧ (ch t.dev c).mach.loops = [] ∧ (ch t.dev c).mach.setup = {} ∧
      (ch t.dev c).mach.counter = 0 ∧ (ch t.dev c).mach.ev = 0

/-- The program store (R198). -/
def Obligations.ProgramStoreCommands : Prop :=
  ∀ (s : State) (p : Port) (b : Bank),
    (Serves s true (.bank b .bk) BK_PCTL →
      (∀ v : Word, bits v 1 0 = 1 → (bk s.dev b).seq.commit = none →
        ∃ t, exec (.commit p b v) s = .next t ∧ (bk t.dev b).seq.commit = some v ∧ flag t.dev (.bank b .bk) BK_PSTS 16 = true ∧ t.mem = s.mem) ∧
      (∀ v : Word, bits v 1 0 = 2 → (bk s.dev b).seq.commit = none → slotValid s.dev b (bits v 11 8) = true →
        (∀ x ∈ bankChans b, (ch s.dev x).mach.slot.map (fun k => k.val) = some (bits v 11 8) → (ch s.dev x).mach.st ∉ [.run, .step, .wait]) →
        ∃ t, exec (.release p b v) s = .next t ∧ slotValid t.dev b (bits v 11 8) = false ∧ fld t.dev (.bank b .bk) BK_PSTS 3 0 = 0)) ∧
    (∀ v : Word, (bk s.dev b).seq.commit = some v →
      let r := commitResult s.mem s.dev b (bits v 31 16) (bits v 11 8)
      ∃ t, exec (.commitDone b) s = .next t ∧ (bk t.dev b).seq.commit = none ∧ fld t.dev (.bank b .bk) BK_PSTS 3 0 = r ∧
        fld t.dev (.bank b .bk) BK_PSTS 15 12 = bits v 11 8 ∧
        (r = 0 → slotValid t.dev b (bits v 11 8) = true ∧ slotBase t.dev b (bits v 11 8) = bits v 31 16)) ∧
    (∀ (i : Fin 65536) (hi : Word), portServes s.dev true (BitVec.ofNat 32 (bankMem b + 8 * i.val + 4)) = true → s.dev.pwr.fup = true →
      s.dev.xc.up = true → inImage s.dev b i.val = false →
      ∃ t, exec (.programWordWrite p b i hi) s = .next t ∧ t.mem.read32 (bankMem b + 8 * i.val + 4) = hi ∧
        (∀ lo, (takeLow s.dev p (bankMem b + 8 * i.val + 4)).1 = some lo → t.mem.read32 (bankMem b + 8 * i.val) = lo) ∧
        (∀ a, (a < bankMem b + 8 * i.val ∨ bankMem b + 8 * i.val + 8 ≤ a) → t.mem.read a = s.mem.read a))

/-- A committed image cannot be written (R198). -/
def Obligations.CommittedImageStays : Prop :=
  ∀ (s : State) (p : Port) (b : Bank) (i : Fin 65536) (hi : Word),
    portServes s.dev true (BitVec.ofNat 32 (bankMem b + 8 * i.val + 4)) = true → s.dev.pwr.fup = true → s.dev.xc.up = true →
    inImage s.dev b i.val = true →
    ∃ t, exec (.programWordWrite p b i hi) s = .next t ∧ t.mem = s.mem ∧ flag t.dev (.bank b .bk) ACC_STS 0 = true

/-- The waveform and stream events (R209 to R219). -/
def Obligations.WaveformEventsTakeEffect : Prop :=
  (∀ (s : State) (b : Bank) (tm : Fin 16) (t : TS) (c : Chan) (st : Step) (i : PlayItem), FieldCan s t →
    let d := fieldAt s.dev t
    bit (timerReg d b tm.val) 31 = true → timerTicks d b tm.val = true → c.bank = b →
    (∀ x, x ≠ c → (ch d x).mach.step = none ∧ (ch d x).mach.playing = none ∧ (ch d x).mach.queue = []) →
    (∀ x, (ch d x).mach.provs = [] ∧ (ch d x).mach.replaced = none) →
    (ch d c).mach.step = some st → st.kind = .wave → st.started = true → (ch d c).mach.playing = some i → (ch d c).mach.queue = [] →
    i.timer = tm.val → i.stream = false → itemOver i = false → (ch d c).mach.tickAt ≠ some d.tb.mono →
    (bk d b).seq.badSegs.contains i.seg = false →
    let x := codeSetpoint (sx 16 (waveWordAt s.mem d b (i.start + i.done % i.len) d.tb.mono)) i.scale i.ofs
    ∃ u, exec (.timerTick b tm t) s = .next u ∧ (ch u.dev c).mach.playing = some { i with done := i.done + 1 } ∧
      (ch u.dev c).mach.playLast = x ∧ (ch u.dev c).mach.lead = (ch d c).mach.lead ++ [(d.tb.mono + 163840, x)]) ∧
  (∀ (s : State) (c : Chan) (t : TS), FieldCan s t →
    let d := fieldAt s.dev t
    ∀ p, (ch d c).mach.provs = [p] → (ch d c).mach.replaced = none → p.tick.at_ + succLag ≤ d.tb.mono → p.abort = none →
    ∃ u, exec (.successorDeadline c t) s = .next u ∧ (ch u.dev c).mach.provs = [] ∧ (ch u.dev c).mach.step = (ch d c).mach.step ∧
      (ch u.dev c).mach.playing = (ch d c).mach.playing) ∧
  (∀ (s : State) (h : XHead) (w f : Word) (ws : List Word) (c : Chan), s.dev.pwr.fup = true → s.dev.xc.early = [] → xTaken s.dev h 4 false = true →
    h.len.val = ws.length + 2 → Bank.chan ⟨bits w 28 26 % 8, Nat.mod_lt _ (by decide)⟩ (bits w 25 21) = c → bits w 25 21 < 24 →
    0 < bits w 10 0 → bits w 10 0 ≤ 1024 → ws.length = (bits w 10 0 + 1) / 2 → flag s.dev (chBlk c) CH_SCTL 0 = true →
    f = (ch s.dev c).mach.widx →
    (∀ x ∈ strmSamples f ws (bits w 10 0), 0 ≤ idxDiff x.idx (ch s.dev c).mach.pidx) →
    (ch s.dev c).mach.fifo.length + (strmSamples f ws (bits w 10 0)).length ≤ 2048 →
    ∃ u, exec (.strm h (w :: f :: ws)) s = .next u ∧ (ch u.dev c).mach.widx = f + BitVec.ofNat 32 (bits w 10 0) ∧
      (ch u.dev c).mach.fifo = (ch s.dev c).mach.fifo ++ strmSamples f ws (bits w 10 0)) ∧
  (∀ (s : State) (p : Port) (c : Chan) (v : Word), bit v 1 = true → Serves s true (chBlk c) CH_SCTL → isFollower s.dev c = false →
    streamPlays (ch s.dev c).mach = false →
    ∃ u, exec (.streamReset p c v) s = .next u ∧ (ch u.dev c).mach = { (ch s.dev c).mach with widx := 0, pidx := 0, fifo := [] })

/-- The schedule (R223, R224). -/
def Obligations.ScheduleSubmission : Prop :=
  ∀ (s : State) (p : Port) (b : Bank), Serves s true (.bank b .bk) BK_SCH_GO → flag s.dev bDEV DEV_STS 17 = true →
    let c := schReg s.dev p b BK_SCH_CMD
    let r := schReason s.dev p b
    let old := (bk s.dev b).seq.pending
    let takes (t : State) (l : List Sched) : Prop :=
      bits (schReg t.dev p b BK_SCH_RES) 7 0 = r ∧ bits (schReg t.dev p b BK_SCH_RES) 23 8 = bits c 31 16 ∧
      bits (schReg t.dev p b BK_SCH_RES) 31 24 = (bits (schReg s.dev p b BK_SCH_RES) 31 24 + 1) % 256 ∧
      (bk t.dev b).seq.pending = if r ≠ 0 then old else l
    (bits c 3 0 = 1 → ∃ t, exec (.submitStart p b) s = .next t ∧ takes t (old ++ schEntries s.dev p b)) ∧
    (bits c 3 0 = 2 → ∃ t, exec (.submitStop p b) s = .next t ∧ takes t (old ++ schEntries s.dev p b)) ∧
    (bits c 3 0 = 3 → ∃ t, exec (.submitAbort p b) s = .next t ∧ takes t (old ++ schEntries s.dev p b)) ∧
    (bits c 3 0 = 4 → ∃ t, exec (.submitNudge p b) s = .next t ∧ takes t (old ++ schEntries s.dev p b)) ∧
    (bits c 3 0 = 5 → ∃ t, exec (.cancel p b) s = .next t ∧ takes t (old.filter fun e => decide (e.tag ≠ bits c 31 16)))

/-- Scheduled commands (R223, R225). -/
def Obligations.ScheduledCommandsExecute : Prop :=
  ∀ (s : State) (c : Chan) (t : TS) (e : Sched), FieldCan s t →
    let d := fieldAt s.dev t
    let m := (ch d c).mach
    let ok := e.safe = false ∧ flag d (chBlk c) CH_CTRL 0 = true ∧ isFollower d c = false
    (schFind d c 1 1 = some e → schStartDrop d c e = 0 → ∃ u r, exec (.schedStart c t) s = .next u ∧
      (bk u.dev c.bank).seq.pending = (bk d c.bank).seq.pending.erase e ∧ (ch u.dev c).mach.startReq = some r ∧
      bits r 10 7 = bits e.cmd 10 7 ∧ bits r 15 11 = bits e.cmd 15 11) ∧
    (schFind d c 1 1 = some e → schStartDrop d c e ≠ 0 → ∃ u, exec (.schedStart c t) s = .next u ∧ (ch u.dev c).mach = m ∧
      (bk u.dev c.bank).seq.pending = (bk d c.bank).seq.pending.erase e ∧
      fld u.dev (chBlk c) CH_ASTS 20 17 = schStartDrop d c e ∧
      (rd u.dev (.bank c.bank .bk) BK_SCH_DROP).toNat = satInc 0xFFFFFFFF (rd d (.bank c.bank .bk) BK_SCH_DROP).toNat) ∧
    (schFind d c 2 7680 = some e → ok → m.st = .run ∨ m.st = .step ∨ m.st = .wait →
      fOp (pcWord s.mem d c) ≠ 0x0B → fOp (pcWord s.mem d c) ≠ 0x3F → ∃ u, exec (.schedStop c t) s = .next u ∧
      (ch u.dev c).mach.st = .halt ∧ fld u.dev (chBlk c) CH_APC 31 16 = 0xFFFF) ∧
    (∀ x, schFind d c 3 1 = some e → ok → m.step = some x → reqOf d.led.queue c = none → reqOf d.led.expired c = none →
      ∃ u, exec (.schedAbort c t) s = .next u ∧ (ch u.dev c).mach = { m with abortReq := x.started }) ∧
    (schFind d c 4 1 = some e → ok → ∃ u, exec (.schedNudge c t) s = .next u ∧
      (ch u.dev c).mach = { m with ev := m.ev ||| 2 ^ bits e.cmd 6 4, condBef := some (d.tb.mono, pendBefore d m) }) ∧
    (schFind d c 4 1 = some e → ¬ok → ∃ u, exec (.schedNudge c t) s = .next u ∧ (ch u.dev c).mach = m ∧
      (bk u.dev c.bank).seq.pending = (bk d c.bank).seq.pending.erase e)

/-- Plain register writes (R6, R37, R47, R50). -/
def Obligations.RegisterWritesStore : Prop :=
  ∀ (s : State) (p : Port) (k : Blk) (off al : Nat) (v : Word) (r : RegDef), al < 4 → PlainWrite s p k off al v r →
    portServes s.dev true (regAddr k (off + 0x4000 * al)) = true → (blkField k = true → s.dev.pwr.fup = true ∧ s.dev.xc.up = true) →
    off % 4 = 0 →
    let late := lateMask s.dev k off r.cfg
    let new := asksFor s p k off al v r
    let old := rd s.dev k (homeOff p k off)
    let stores (t : State) : Prop := rd t.dev k (homeOff p k off) = unlessCleared s p k off new ∧ t.mem = s.mem ∧
      t.dev.chans = s.dev.chans ∧ ∀ j o, o < 0x4000 → (j ≠ k ∨ o ≠ homeOff p k off) → rd t.dev j o = rd s.dev j o
    let refuses (t : State) : Prop := flag t.dev k ACC_STS 1 = true ∧
      rd t.dev k (homeOff p k off) &&& BitVec.ofNat 32 late = unlessCleared s p k off old &&& BitVec.ofNat 32 late
    (al = 0 →
      (late = 0 → ∃ t, exec (.regWrite p (regAddr k off) .b32 v) s = .next t ∧ stores t) ∧
      ((new ^^^ old) &&& BitVec.ofNat 32 late ≠ 0 → ∃ t, exec (.regWrite p (regAddr k off) .b32 v) s = .next t ∧ refuses t)) ∧
    (al ≠ 0 →
      (late = 0 → ∃ t, exec (.aliasWrite p (regAddr k (off + 0x4000 * al)) .b32 v) s = .next t ∧ stores t) ∧
      ((new ^^^ old) &&& BitVec.ofNat 32 late ≠ 0 → ∃ t, exec (.aliasWrite p (regAddr k (off + 0x4000 * al)) .b32 v) s = .next t ∧ refuses t))

/-- UNLOCK (R48). -/
def Obligations.LocksOpenAndArm : Prop :=
  ∀ (s : State) (p : Port) (k : Blk) (v : Word), Serves s true k UNLOCK_OFF →
    ∃ t, exec (.unlock p (regAddr k UNLOCK_OFF) v) s = .next t ∧ lockOpen t.dev k = decide (v = 0x5AFE0192) ∧
      (∀ j, j ≠ k → lockOpen t.dev j = lockOpen s.dev j) ∧ t.dev.regs = s.dev.regs ∧ t.mem = s.mem

/-- The write-back of an accession number (R54, R337). -/
def Obligations.WriteBackClearsStatus : Prop :=
  ∀ (s : State) (p : Port) (k : Blk) (off i : Nat) (r : RegDef) (v : Word), Serves s true k off → off < 0x4000 → off % 4 = 0 →
    regAt k off = some (r, i) → r.ra ≠ 0 → off ≠ UNLOCK_OFF →
    let read := s.dev.seen.contains (regKey k off)
    (bits v 31 24 = fld s.dev k off 31 24 → read = true → off ≠ FLT_STS →
      ∃ t, exec (.accessionWriteBack p (regAddr k off) v) s = .next t ∧ rd t.dev k off &&& BitVec.ofNat 32 (ackMask s.dev k off r.ra) = 0) ∧
    (bits v 31 24 = fld s.dev k off 31 24 → read = true → off = FLT_STS → liveOf s.dev k = [] →
      ∃ t, exec (.accessionWriteBack p (regAddr k off) v) s = .next t ∧ fld t.dev k FLT_STS 3 0 = 0 ∧ rd t.dev k FLT_CAUSE = 0) ∧
    (bits v 31 24 ≠ fld s.dev k off 31 24 ∨ read = false →
      ∃ t, exec (.accessionWriteBack p (regAddr k off) v) s = .next t ∧ t.dev.regs = s.dev.regs ∧ t.mem = s.mem)

/-- 64-bit accesses (R43, R44). -/
def Obligations.LowWordAccesses : Prop :=
  ∀ (s : State) (p : Port),
    (∀ (k : Blk) (off i : Nat) (r : RegDef), off < 0x4000 → off % 4 = 0 → regAt k off = some (r, i) → r.lo64 = true → off ≠ UNLOCK_OFF →
      (Serves s false k off → ∃ t, exec (.lowWordRead p (regAddr k off)) s = .next t ∧
        (portSt t.dev p).rdata = readVal s.dev p k off ∧ (portSt t.dev p).rd = some ⟨regKey k (off + 4), readVal s.dev p k (off + 4)⟩) ∧
      (∀ v, Serves s true k off → r.ra = 0 → (r.rw ≠ 0 ∨ r.wk ≠ 0) → (portSt s.dev p).wr = none →
        ∃ t, exec (.lowWordWrite p (regAddr k off) v) s = .next t ∧ (portSt t.dev p).wr = some ⟨regKey k (off + 4), v⟩ ∧
          t.dev.regs = s.dev.regs ∧ t.mem = s.mem)) ∧
    (∀ (b : Bank) (i : Fin 65536), s.dev.pwr.fup = true → s.dev.xc.up = true →
      let a := bankMem b + 8 * i.val
      (portServes s.dev false (BitVec.ofNat 32 a) = true → ∃ t, exec (.lowWordRead p (BitVec.ofNat 32 a)) s = .next t ∧
        (portSt t.dev p).rdata = s.mem.read32 a ∧ (portSt t.dev p).rd = some ⟨a + 4, s.mem.read32 (a + 4)⟩) ∧
      (∀ v, portServes s.dev true (BitVec.ofNat 32 a) = true → (portSt s.dev p).wr = none →
        ∃ t, exec (.lowWordWrite p (BitVec.ofNat 32 a) v) s = .next t ∧ (portSt t.dev p).wr = some ⟨a + 4, v⟩ ∧ t.mem = s.mem))

/-- Accesses to no block and no window (R42). -/
def Obligations.UnmappedReadsZero : Prop :=
  ∀ (s : State) (p : Port) (a v : Word) (write : Bool), locate a = .none → portServes s.dev write a = true →
    ∃ t, exec (.unmappedAccess p a write v) s = .next t ∧ flag t.dev bDEV ACC_STS 0 = true ∧
      (fld s.dev bDEV ACC_ADDR 29 28 = 0 → fld t.dev bDEV ACC_ADDR 15 0 = a.toNat % 0x10000) ∧
      (write = false → (portSt t.dev p).rdata = 0) ∧ t.mem = s.mem ∧ t.dev.chans = s.dev.chans ∧ t.dev.banks = s.dev.banks ∧
      ∀ k o, regKey k o ≠ regKey bDEV ACC_STS → regKey k o ≠ regKey bDEV ACC_ADDR → rd t.dev k o = rd s.dev k o

/-- MSP_CFG and MSP_XDATA (R56, R62). -/
def Obligations.MspRegistersAct : Prop :=
  ∀ (s : State) (p : Port),
    (∀ v : Word, Serves s true bMSP MSP_CFG → ∃ t, exec (.mspCfgWrite p v) s = .next t ∧ flag t.dev bMSP MSP_CFG 8 = bit v 8 ∧
      fld t.dev bMSP MSP_CFG 5 0 = (if 4 ≤ bits v 5 0 ∧ bits v 5 0 ≤ 32 then bits v 5 0 else fld s.dev bMSP MSP_CFG 5 0)) ∧
    (∀ (v : Word) (k : Blk) (off : Nat) (r : RegDef), Serves s true bMSP MSP_XDATA → rd s.dev bMSP MSP_XADDR = regAddr k off → off % 4 = 0 →
      PlainWrite s p k off 0 v r → (blkField k = true → s.dev.pwr.fup = true ∧ s.dev.xc.up = true) → lateMask s.dev k off r.cfg = 0 →
      ∃ t, exec (.mspXdataAccess p true v) s = .next t ∧ rd t.dev k (homeOff p k off) = unlessCleared s p k off (asksFor s p k off 0 v r) ∧ t.mem = s.mem)

/-- MSP frames (R55 to R67). -/
def Obligations.SerialFramesAct : Prop :=
  ∀ (s : State), portsUp s.dev = true → s.dev.sl.restart = false →
    (mspChain s.dev = false → 
      (∀ (cmd : Byte) (n late : Nat), cmd.getLsbD 7 = true → ∃ t, exec (.mspReadFrame cmd n late) s = .next t ∧ t.mem = s.mem ∧
        t.dev.msp.dout.length = n / 32 ∧ flag t.dev bMSP MSP_FSTAT 7 = true ∧
        (32 ≤ n → late = 0 → cmd.toNat % 64 ≠ 0x3F →
          t.dev.msp.dout.head? = some (mspRead s.mem s.dev (pageAddr s.dev.msp.page (cmd.toNat % 64))).1)) ∧
      (∀ (cmd : Byte) (v : Word), cmd.getLsbD 7 = false → 32 % mspWlen s.dev = 0 → cmd.toNat % 64 ≠ 0x3F →
        let x := mspWrite s.mem s.dev (pageAddr s.dev.msp.page (cmd.toNat % 64)) v
        exec (.mspWriteFrame cmd [v] 0) s = .next { s with mem := x.2.1, dev := modMsp (frameEnd x.2.2 (8 * b2n x.1)) fun k => { k with dout := [0] } }) ∧
      (∀ (cmd : Byte) (ws : List Word) (e : Nat), cmd.getLsbD 7 = false → (32 * ws.length + e) % mspWlen s.dev ≠ 0 →
        ∃ t, exec (.mspWriteFrame cmd ws e) s = .next t ∧ t.mem = s.mem ∧ flag t.dev bMSP MSP_FSTAT 5 = true ∧
          t.dev.msp.stat = (rd s.dev bMSP MSP_FSTAT).truncate 8 ∧ t.dev.msp.dout = ws.map (fun _ => 0) ∧
          (rd t.dev bMSP MSP_REJ_CNT).toNat = satInc 0xFFFFFFFF (rd s.dev bMSP MSP_REJ_CNT).toNat) ∧
      (∀ v : Word, 32 % mspWlen s.dev = 0 → ∃ t, exec (.mspPageWrite v) s = .next t ∧ t.dev.msp.page = v.truncate 24 ∧ t.mem = s.mem)) ∧
    (mspChain s.dev = true → mspWlen s.dev ≠ 32 → ∀ (di n : Nat) (late : Bool),
      let x := stageShift (mspWlen s.dev) s.dev.msp.pass di n
      ∃ t, exec (.mspChainFrame di n late) s = .next t ∧ t.mem = s.mem ∧ t.dev.chans = s.dev.chans ∧ t.dev.banks = s.dev.banks ∧
        t.dev.msp.chain = x.1 ∧ t.dev.msp.pass = x.2 ∧ flag t.dev bMSP MSP_FSTAT 1 = true) ∧
    (mspChain s.dev = true → mspWlen s.dev = 32 →
      let d := modMsp s.dev fun k => { k with chain := k.resp.toNat }
      (∀ (di n : Nat) (late : Bool) (idx : Fin 64),
        let x := stageShift 32 s.dev.msp.resp.toNat di n
        n % 32 = 0 → x.2 / 2 ^ 24 = idx.val → idx.val ≠ 0x3F →
        ∃ t, exec (.mspChainFrame di n late) s = .next t ∧ t.dev.msp.chain = x.1 ∧ t.dev.msp.chainWr = some (idx, BitVec.ofNat 24 x.2) ∧
          t.dev.msp.resp = 0x80000000 ∧ t.mem = s.mem) ∧
      (∀ (idx : Fin 64) (x : BitVec 24), idx.val ≠ 0x3F →
        ∃ t, exec (.chainWriteLow idx x) s = .next t ∧ t.dev.msp.chainWr = some (idx, x) ∧ t.mem = s.mem) ∧
      (∀ (idx : Fin 64) (x y : BitVec 24), idx.val ≠ 0x3F → s.dev.msp.chainWr = some (idx, y) →
        let w := mspWrite s.mem d (pageAddr s.dev.msp.page idx.val) (BitVec.ofNat 32 (x.toNat % 256 * 0x1000000 + y.toNat))
        ∃ t, exec (.chainWriteHigh idx x) s = .next t ∧ t.mem = w.2.1 ∧ t.dev.chans = w.2.2.chans ∧ t.dev.banks = w.2.2.banks) ∧
      (∀ idx : Fin 64, idx.val ≠ 0x3F → let r := mspRead s.mem d (pageAddr s.dev.msp.page idx.val)
        ∃ t, exec (.chainReadLow idx) s = .next t ∧ t.dev.msp.resp.truncate 24 = (r.1.truncate 24 : BitVec 24) ∧
          t.dev.msp.chainRd = some (idx, (r.1 >>> 24).truncate 8)) ∧
      (∀ (idx : Fin 64) (h : BitVec 8), idx.val ≠ 0x3F → s.dev.msp.chainRd = some (idx, h) →
        ∃ t, exec (.chainReadHigh idx) s = .next t ∧ t.dev.msp.resp.truncate 24 = (h.zeroExtend 24 : BitVec 24) ∧ t.mem = s.mem) ∧
      (∃ t, exec .chainNop s = .next t ∧ t.dev.msp.resp = 0x80000000 ∧ t.mem = s.mem) ∧
      (∀ v : Word, ∃ t, exec (.mspPageWrite v) s = .next t ∧ t.dev.msp.page = v.truncate 24))

/-- Crossing frames with commands, records, triggers, faults and boot images (R10 to R16, R22, R338). -/
def Obligations.CrossingFramesAct : Prop :=
  ∀ (s : State) (h : XHead), s.dev.xc.early = [] →
    (xTaken s.dev h 1 false = true → s.dev.pwr.fup = true →
      ∀ (p : Port) (b : Bank) (i : Nat) (v : Word), 4 * i < regionSize 1 →
        let a := bankMem b + 0x1000000 + 4 * i
        (∃ t, exec (.cmdFrame h p true (BitVec.ofNat 32 a) v) s = .next t ∧ t.mem.read32 a = v ∧
          (∀ x, (x < a ∨ a + 4 ≤ x) → t.mem.read x = s.mem.read x) ∧ xSeq t.dev h = h.seq + 1) ∧
        (∃ t, exec (.cmdFrame h p false (BitVec.ofNat 32 a) v) s = .next t ∧ (portSt t.dev p).rdata = s.mem.read32 a ∧ t.mem = s.mem)) ∧
    (xTaken s.dev h 1 false = true → s.dev.pwr.fup = true →
      ∀ (p : Port) (k : Blk) (off i : Nat) (r : RegDef) (v : Word), blkField k = true → off < 0x4000 → off % 4 = 0 →
        regAt k off = some (r, i) → (portSt s.dev p).rd = none →
        ∃ t, exec (.cmdFrame h p false (regAddr k off) v) s = .next t ∧ t.mem = s.mem ∧
          (portSt t.dev p).rdata = readVal (accessCycle (frameTaken s.dev h) (portNo p).val) p k off) ∧
    (∀ (p : Port) (write : Bool) (a v : Word), xFate s.dev h 1 false = .early →
      ∃ t, exec (.cmdFrame h p write a v) s = .next t ∧ t.dev.xc.early = [(h, some (.cmd p write a v))] ∧ t.mem = s.mem ∧
        t.dev.regs = s.dev.regs ∧ t.dev.chans = s.dev.chans ∧ t.dev.banks = s.dev.banks) ∧
    (xTaken s.dev h 2 true = true →
      ∃ t, exec (.rspFrame h) s = .next t ∧ xSeq t.dev h = h.seq + 1 ∧ t.dev.regs = s.dev.regs ∧ t.dev.chans = s.dev.chans ∧ t.mem = s.mem) ∧
    (xTaken s.dev h 3 true = true → hostUp s.dev = true →
      (∀ c bytes r, s.dev.xc.spool = .record c bytes :: r →
        ∃ t, exec (.recFrame h) s = .next t ∧ t.dev.xc.spool = r ∧ t.dev.sl.srcSeq = s.dev.sl.srcSeq + 1 ∧ t.dev.sec = s.dev.sec) ∧
      (∀ c n bytes r, s.dev.xc.spool = .body c n bytes :: r →
        ∃ t, exec (.recFrame h) s = .next t ∧ t.dev.xc.spool = r ∧ t.dev.sec.bodies = s.dev.sec.bodies ++ [⟨c, bytes⟩])) ∧
    (∀ (h2 : XHead) (m : TrigMsg), xTaken s.dev h 6 false = true → s.dev.pwr.fup = true →
      h.toHost = false → h2.seq = h.seq → h2.toHost = false → m.kind.val = 2 →
      ∃ t, exec (.trigFrame h h2 m) s = .next t ∧ t.dev.xc.trigSeq = some h.seq ∧
        ∀ n : Fin 8, t.dev.gtPulse.get n =
          if n.val ∈ gtMapped s.dev m.group.toNat then s.dev.tb.mono + 40960 else s.dev.gtPulse.get n) ∧
    (xTaken s.dev h 7 true = true →
      ∃ t, exec (.fltFrame h) s = .next t ∧
        ∀ k, blkField k = true → ∀ o ∈ fltOffsets, smGet regDefault t.dev.mirror (regKey k o) = rd s.dev k o) ∧
    (∀ (ws : List Word), xTaken s.dev h 8 false = true → s.dev.pwr.frail = true → s.dev.pwr.fup = false →
      (∀ sl, s.dev.xc.bootDig = none →
        let x := imagePick (frameTaken s.dev h) (nextField s.dev)
        x.1 = some sl → wordBytes (ws.take 16) = imageDigest x.2 sl →
        ∃ t, exec (.bootFrame h ws false) s = .next t ∧ t.dev.xc.bootSlot = some sl ∧ t.dev.xc.bootDig = some (ws.take 16) ∧
          t.dev.xc.bootData = ws.drop 16) ∧
      (∀ g, s.dev.xc.bootDig = some g →
        ∃ t, exec (.bootFrame h ws false) s = .next t ∧ t.dev.xc.bootData = s.dev.xc.bootData ++ ws ∧ t.dev.xc.bootDig = some g) ∧
      (∀ g, s.dev.xc.bootDig = some g →
        ∃ t, exec (.bootFrame h ws true) s = .next t ∧ t.dev.xc.bootDig = none ∧ t.dev.xc.bootData = [] ∧
          t.dev.xc.bootGood = decide (shaBytes (wordBytes (s.dev.xc.bootData ++ ws)) = wordBytes g) ∧
          t.dev.xc.bootBad = !t.dev.xc.bootGood))

/-- Time and heartbeats across the barrier (R17 to R20, R33, R158). -/
def Obligations.CrossingTimeAndHeartbeats : Prop :=
  ∀ (s : State),
    (∀ t, HostCan s t → let d := advance s.dev t
      supRuns d = true → d.xc.up = true → onHostGrid d d.tb.now 16384 = true →
        ∃ u, exec (.timeFrameSend t) s = .next u ∧ u.dev.tb.xx.t1 = some d.tb.now ∧ u.dev.tb.xx.t2 = none ∧
          u.dev.tb.annFly = d.tb.annNew ∧ u.dev.xc.txHF0 = d.xc.txHF0 + 1 ∧ u.dev.regs = d.regs) ∧
    (∀ h t2, canBe (fieldNow s.dev) t2 = true → let d := fieldAt s.dev t2
      xTaken d h 5 false = true →
        ∃ u, exec (.timeFrame h t2) s = .next u ∧ u.dev.tb.xx.t2 = some (fieldNow d) ∧
          ∀ t1 y, d.tb.xx.t1 = some t1 → d.tb.xd = some y → u.dev.tb.fslew = tsDiff (fieldNow d) t1 - y ∧
            (1024 < (tsDiff (fieldNow d) t1 - y).natAbs → flag u.dev bTB TB_STS 5 = true)) ∧
    (∀ h t3 t4 t1 t2, HostCan s t4 → let d := advance s.dev t4
      xTaken d h 5 true = true → d.tb.xx.t1 = some t1 → d.tb.xx.t2 = some t2 → tsValid t3 = true →
        let x := (delayOffset d 1 t1 t2 t3 d.tb.now).1.1
        ∃ u, exec (.timeEcho h t3 t4) s = .next u ∧ u.dev.tb.xd = some x ∧ rd u.dev bXC XC_LAT = BitVec.ofInt 32 x ∧
          u.dev.tb.xx.t1 = none) ∧
    (supRuns s.dev = true → s.dev.xc.up = true →
      exec .hbSend s = .next { s with dev := modXc s.dev fun k => { k with txHF1 := k.txHF1 + 1 } }) ∧
    (supRuns s.dev = true → s.dev.xc.up = false → ∃ u, exec .hbSend s = .next u ∧ XBody.hb ∈ u.dev.xc.wait ∧ u.dev.regs = s.dev.regs) ∧
    (∀ h t, h.toHost = true → HostCan s t → let d := advance s.dev t
      d.xc.early = [] → xTaken d h 9 true = true → ∃ u, exec (.hbFrame h t) s = .next u ∧ u.dev.xc.hbHost = d.tb.mono ∧ u.dev.regs = d.regs) ∧
    (∀ h t, h.toHost = false → canBe (fieldNow s.dev) t = true → let d := fieldAt s.dev t
      d.xc.early = [] → xTaken d h 9 false = true → autoOut d = false →
        ∃ u, exec (.hbFrame h t) s = .next u ∧ u.dev.xc.autoRun = true ∧ u.dev.xc.autoWin = fld d bXC XC_AUTO 15 0 ∧
          u.dev.xc.autoFrom = d.tb.mono ∧ u.dev.xc.hbLate = false ∧ flag u.dev bXC XC_STS 8 = false) ∧
    (∀ p v, Serves s true bXC XC_AUTO → 
      ∃ u, exec (.xcAutoWrite p v) s = .next u ∧ lockOpen u.dev bXC = false ∧ u.mem = s.mem ∧
        rd u.dev bXC XC_AUTO = (if lockOpen s.dev bXC then
          let old := rd s.dev bXC XC_AUTO
          unlessCleared s p bXC XC_AUTO (merge old (normReg bXC XC_AUTO (merge old v 0xFFFF)) 0xFFFF)
          else rd s.dev bXC XC_AUTO)) ∧
    (∀ t, FieldCan s t → let d := fieldAt s.dev t
      d.xc.autoRun = true → 500 * tapsPerUs < d.tb.mono - d.xc.autoFrom →
        ∃ u, exec (.heartbeatGap t) s = .next u ∧ flag u.dev bXC XC_STS 8 = true ∧
          (1000 * tapsPerUs < d.tb.mono - d.xc.autoFrom → d.xc.hbLate = false → flag u.dev bXC XC_STS 1 = true ∧ u.dev.xc.hbLate = true)) ∧
    (flag s.dev bXC XC_STS 9 = false → ∃ u, exec .ckXfLoss s = .next u ∧ flag u.dev bXC XC_STS 9 = true) ∧
    (flag s.dev bXC XC_STS 9 = true →
      ∃ u, exec .ckXfReturn s = .next u ∧ flag u.dev bXC XC_STS 9 = false ∧ u.dev.tb.fslew = s.dev.tb.fofs)

/-- Loss and return of the crossing (R14, R21, R24). -/
def Obligations.CrossingLossAndReturn : Prop :=
  ∀ (s : State),
    (∀ (toHost : Bool) (lane : Fin 4), lane.val ≠ 0 → flag s.dev bXC XC_LANES (lane.val + 4 * b2n toHost) = true →
      15 ≤ s.dev.xc.fails.getD (lane.val + 4 * b2n toHost) 0 →
      ∃ u, exec (.laneDown toHost lane) s = .next u ∧ flag u.dev bXC XC_LANES (lane.val + 4 * b2n toHost) = false ∧
        flag u.dev bXC XC_STS 6 = true ∧ flag u.dev bXC FLT_STS 2 = true) ∧
    (∀ toHost, supRuns s.dev = true → lane0Failed s.dev toHost = true →
      ∃ u, exec (.lane0 toHost) s = .next u ∧ u.dev.pwr.fatal = some 0x1002 ∧ flag u.dev bXC XC_LANES (4 * b2n toHost) = false) ∧
    (∀ t, HostCan s t → let d := advance s.dev t
      supRuns d = true → d.xc.hbWatch = true → d.xc.up = true → d.xc.hbHost + msTaps 1 ≤ d.tb.mono →
        ∃ u, exec (.fieldloss t) s = .next u ∧ u.dev.xc.up = false ∧ u.dev.xc.lossAt = some d.tb.mono ∧ flag u.dev bXC XC_STS 7 = true) ∧
    (∀ t, HostCan s t → let d := advance s.dev t
      supRuns d = true → d.xc.up = false → d.xc.autoFrom + autoTaps d.xc.autoWin + msTaps 1000 ≤ d.tb.mono →
        ∃ u, exec (.xloss t) s = .next u ∧ u.dev.pwr.fatal = some 0x1004) ∧
    (s.dev.xc.up = false → flag s.dev bXC XC_LANES 0 = true → fld s.dev bXC XC_LANES 3 1 ≠ 0 → flag s.dev bXC XC_LANES 4 = true →
      fld s.dev bXC XC_LANES 7 5 ≠ 0 →
      ∃ u, exec .crossingRestored s = .next u ∧ u.dev.xc.up = true ∧ u.dev.xc.held = [] ∧ u.dev.xc.lossAt = none)

/-- The device's safe state (R18, R300, R340). -/
def Obligations.SafeStateEverywhere : Prop :=
  ∀ (s : State),
    (∀ t, FieldCan s t → let d := fieldAt s.dev t
      d.xc.autoRun = true → d.xc.autoFrom + autoTaps d.xc.autoWin ≤ d.tb.mono →
        ∃ u, exec (.autonomyExpiry t) s = .next u ∧ u.dev.xc.autoRun = false ∧ u.dev.xc.autoSafe = true ∧ flag u.dev bXC XC_STS 2 = true ∧
          ∀ c, IsSafe u.dev c) ∧
    (∀ t, FieldCan s t → s.dev.pwr.filk = true →
      ∃ u, exec (.interlock t) s = .next u ∧ u.dev.pwr.filk = false ∧
        (∀ c, IsSafe u.dev c) ∧
        ∀ b, flag u.dev (.bank b .cmp) CMP_ILK 0 = true ∧ flag u.dev (.bank b .loop) LOOP_CTL 0 = false) ∧
    (∀ t, canBe (fieldNow s.dev) t = true → s.dev.pwr.fup = false → let d := fieldAt s.dev t
      exec (.interlock t) s = .next { s with dev := { d with pwr := { d.pwr with filk := false } } }) ∧
    (∀ h, s.dev.xc.early = [] → xTaken s.dev h 7 false = true → s.dev.pwr.fup = true →
      ∃ u, exec (.fatalFltFrame h) s = .next u ∧
        ∀ c, IsSafe u.dev c)

/-- PWM periods and the dead-time tracker (R71 to R79). -/
def Obligations.PwmPeriodsAndDeadTimes : Prop :=
  ∀ (s : State) (c : Chan),
    (∀ (t tk : TS) (duty : Nat), FieldCan s t →
      let d := fieldAt s.dev t
      let f := (ch d c).force
      let dta := fld d (chBlk c) CH_DT_CMD 15 0
      (ch d (leadOf d c)).mach.tail = none → f.drive = .pwm → isPwmBoundary d c (fieldNow d) = true → f.pend = [(tk, duty)] →
      (f.perStart.isSome = true → tk = fieldNow d → ∃ u, exec (.pwmBoundary c t) s = .next u ∧ (ch u.dev c).force.pend = [(tk, duty)] ∧
        rd u.dev (chBlk c) CH_DUTY =
          BitVec.ofNat 32 (clampDuty u.dev c (fld u.dev (chBlk c) CH_DT_CMD 15 0) (fld u.dev (chBlk c) CH_DT_CMD 31 16) f.cmd)) ∧
      (0 < tsDiff (fieldNow d) tk → f.perStart = none → ∃ u, exec (.pwmBoundary c t) s = .next u ∧ (ch u.dev c).force.perStart = some (fieldNow d) ∧
        (ch u.dev c).force.pend = [] ∧
        rd u.dev (chBlk c) CH_DUTY = BitVec.ofNat 32 (clampDuty d c dta (fld d (chBlk c) CH_DT_CMD 31 16) duty)) ∧
      (0 < tsDiff (fieldNow d) tk → f.perStart.isSome = true → ∃ u, exec (.pwmBoundary c t) s = .next u ∧ (ch u.dev c).force.perStart = some (fieldNow d) ∧
        (ch u.dev c).force.pend = [] ∧ (ch u.dev c).force.dMeasBA = none ∧
        rd u.dev (chBlk c) CH_DUTY =
          BitVec.ofNat 32 (clampDuty u.dev c (fld u.dev (chBlk c) CH_DT_CMD 15 0) (fld u.dev (chBlk c) CH_DT_CMD 31 16) duty) ∧
        fld u.dev (chBlk c) CH_DT_CMD 15 0 =
          if 16 ≤ (if f.swtSeen then 0 else f.swtQuiet + 1) then dtMax d c
          else nextDt (wantedDt (guardStep d c) c f.dMeasBA f.perDt.1).1 dta)) ∧
    (∀ (t t0 st : TS) (j : Fin 192), FieldCan s t → t.toNat % 256 = 0 →
      let d := doTapApply ⟨2 * c.val + 1, by omega⟩ t (fieldAt s.dev t)
      hitStamp d (2 * c.val + 1) t j = some st → (ch d c).force.perStart = some t0 → 0 ≤ tsDiff st t0 → (ch d c).force.dMeasBA = none →
        ∃ u, exec (.swtEdge c true ⟨t, j⟩) s = .next u ∧ (ch u.dev c).force.swtSeen = true ∧
          (ch u.dev c).force.dMeasBA = some (tsDiff st t0).toNat) ∧
    (∀ t : TS, draHigh s.dev c t = true → drbHigh s.dev c t = false) ∧
    ((ch s.dev c).force.drive = .pwm → 16 ≤ (ch s.dev c).force.swtQuiet → (ch s.dev c).force.swtLost = false →
      ∃ u, exec (.swtloss c) s = .next u ∧ (ch u.dev c).force.swtLost = true ∧ flag u.dev (chBlk c) CH_STS 6 = true ∧
        rd u.dev (chBlk c) CH_DT_CMD = BitVec.ofNat 32 (dtMax s.dev c * 0x10000 + dtMax s.dev c)) ∧
    ((ch s.dev c).force.drive = .pwm → 256 ≤ (ch s.dev c).force.swtQuiet →
      ∃ u, exec (.swtdead c) s = .next u ∧ FaultSafe s.dev u.dev c)

/-- The loop engine (R83 to R91, R106). -/
def Obligations.LoopEngineActs : Prop :=
  ∀ (s : State) (c : Chan) (t : TS), FieldCan s t →
    let d := fieldAt s.dev t
    let f := (ch d c).force
    (ch d (leadOf d c)).mach.tail = none →
    (∀ fv fi : BitVec 16, (fieldNow d).toNat % 256 = 0 → extPeriods d (fieldNow d) % 256 = 10 * c.inBank →
      (isUpdate d c (fieldNow d) = false → ∃ u, exec (.loopSample c t fv fi) s = .next u ∧
        rd u.dev (chBlk c) CH_FAST = BitVec.ofNat 32 (fi.toNat * 0x10000 + fv.toNat) ∧
        (ch u.dev c).force = { f with avgV := f.avgV + fv.toInt, avgI := f.avgI + fi.toInt, avgN := f.avgN + 1 }) ∧
      (∀ x, isUpdate d c (fieldNow d) = true → leadOf d c = c → (ch d c).mach.step = some x → x.started = true → x.mode ≠ 4 →
        (ch d c).mach.lead = [] → flag d (chBlk c) CH_STS 19 = true →
        ∃ u y, exec (.loopSample c t fv fi) s = .next u ∧ (ch u.dev c).force.upd.getLast? = some y ∧ y.tAt = fieldNow d ∧
          y.dem = (ch u.dev c).force.lastDem ∧ (ch u.dev c).force.fromSafe = false ∧ (ch u.dev c).force.avgN = 0)) ∧
    (∀ x xs, f.upd = x :: xs → (∀ y ∈ xs, tsDiff (fieldNow d) y.tAt < 49152) → tsDiff (fieldNow d) x.tAt = 49152 →
      (f.drive = .pwm → ∃ u, exec (.loopTick c t) s = .next u ∧
        (ch u.dev c).force = { f with upd := xs, grpDem := x.dem, pend := ((fieldNow d, x.u) :: f.pend).take 2 } ∧ u.dev.regs = d.regs) ∧
      (f.drive = .dac → ∃ u, exec (.loopTick c t) s = .next u ∧
        (ch u.dev c).force = { f with upd := xs, grpDem := x.dem } ∧ rd u.dev (chBlk c) CH_DAC = BitVec.ofNat 32 x.u)) ∧
    (∀ x, 10 ≤ (ch s.dev c).force.vwRun → (ch s.dev c).mach.step = some x → x.ending = none →
      ∃ u, exec (.vwindow c) s = .next u ∧ flag u.dev (chBlk c) CH_STS 4 = true ∧
        (ch u.dev c).mach.step = some { x with ending := some (5, 0) }) ∧
    (f.drive = .dac → ∃ u, exec (.draLimit c t) s = .next u ∧ flag u.dev (chBlk c) CH_STS 5 = true ∧
      (ch u.dev c).force = { f with sclimAt := some d.tb.mono }) ∧
    (∀ x, f.sclimAt = some x → 100 * tapsPerUs ≤ d.tb.mono - x →
      ∃ u, exec (.sclim c t) s = .next u ∧ FaultSafe d u.dev c) ∧
    ((fieldNow d).toNat % 256 = 0 → extPeriods d (fieldNow d) % 256 = 10 * c.inBank →
      (∀ x, f.trimAt = some x → x + 100000 * tapsPerUs ≤ d.tb.mono) →
      ∃ u w, exec (.fastTrim c t) s = .next u ∧ (ch u.dev c).force = { f with trimAt := some d.tb.mono, trim := w } ∧ w.length = 4)

/-- Locked groups (R27 to R31, R93 to R96). -/
def Obligations.GroupsFormAndDissolve : Prop :=
  ∀ (s : State) (c : Chan),
    (∀ (p : Port) (v : Word), Serves s true (bankOf c .loop) (grpOff c) →
      let n := bits v 3 0
      (2 ≤ n → n ≤ 8 →
        (isFollower s.dev c = false → grpMayForm s.dev c n = true → ∃ u, exec (.groupForm p c v) s = .next u ∧ fld u.dev (bankOf c .loop) (grpOff c) 3 0 = n ∧
          ∀ k, k < n → grpLeader u.dev (c.bank.chan (c.inBank + k)) = some c) ∧
        (isFollower s.dev c = true ∨ grpMayForm s.dev c n = false → ∃ u, exec (.groupForm p c v) s = .next u ∧ flag u.dev (bankOf c .loop) LOOP_STS 2 = true ∧
          fld u.dev (bankOf c .loop) (grpOff c) 3 0 = fld s.dev (bankOf c .loop) (grpOff c) 3 0 ∧ grpLeader u.dev c = grpLeader s.dev c)) ∧
      (n ≤ 1 → grpLeader s.dev c = some c → flag s.dev (chBlk c) CH_CTRL 0 = false →
        ∃ u, exec (.groupDissolve p c v) s = .next u ∧
          ∀ m ∈ members s.dev c, grpLeader u.dev m = none ∧ flag u.dev (chBlk m) CH_CTRL 0 = false)) ∧
    (∀ (x : Fin 24) (t : TS) (a : Nat), FieldCan s t →
      let d := fieldAt s.dev t
      let m := c.bank.chan x.val
      (ch d m).force.shareAt = some a → grpLeader d m = some c → 1000 * tapsPerUs ≤ d.tb.mono - a →
        ∃ u, exec (.share c x t) s = .next u ∧ flag u.dev (bankOf c .loop) LOOP_STS 1 = true ∧ FaultSafe d u.dev c)

/-- Banks and channels (R97 to R101). -/
def Obligations.BanksAndChannelsEnable : Prop :=
  (∀ (s : State) (p : Port) (b : Bank), Serves s true (.bank b .loop) LOOP_CTL →
    (bkenBarred s.dev b = false → (bk s.dev b).seq.bfltAt ≠ some (s.dev.tb.mono / 160) →
      ∃ u, exec (.bankEnable p b) s = .next u ∧ flag u.dev (.bank b .loop) LOOP_CTL 0 = true) ∧
    (bkenBarred s.dev b = true → ∃ u, exec (.bankEnable p b) s = .next u ∧ flag u.dev (.bank b .loop) ACC_STS 0 = true ∧
      flag u.dev (.bank b .loop) LOOP_CTL 0 = flag s.dev (.bank b .loop) LOOP_CTL 0) ∧
    (flag s.dev (.bank b .loop) LOOP_CTL 0 = true → ∃ u, exec (.bankDisable p b) s = .next u ∧
      flag u.dev (.bank b .loop) LOOP_CTL 0 = false ∧ ∀ c, c.bank = b → IsSafe u.dev c)) ∧
  (∀ (s : State) (b : Bank) (t : TS), FieldCan s t →
    let d := fieldAt s.dev t
    (∀ a, (bk d b).seq.endlyAt = some a → a ≤ d.tb.mono → ∃ u, exec (.endlyExpiry b t) s = .next u ∧ (bk u.dev b).seq.endlyAt = none ∧
      ∀ c x, c.bank = b → (ch d c).mach.step = some x → x.started = true → stepDrives (ch d c).mach x.kind = true → (x.kind ≠ .wave ∨ x.took = true) →
        flag d (chBlk c) CH_STS 18 = false → flag u.dev (chBlk c) CH_STS 19 = true) ∧
    (∀ since : TS, flag d (.bank b .loop) LOOP_STS 16 = false → bkEn d b = true →
      since.toNat / 256 + fld d (.bank b .loop) LOOP_FLTCFG 7 0 ≤ (fieldNow d).toNat / 256 →
      (∀ x, (bk d b).seq.fltLow = some x → x + (fieldNow d).toNat / 256 < d.tb.mono / 160 + since.toNat / 256) →
      ∃ u, exec (.bankflt b ⟨since, t⟩) s = .next u ∧ flag u.dev (.bank b .loop) LOOP_STS 16 = true ∧ flag u.dev (.bank b .loop) LOOP_STS 0 = true ∧
        flag u.dev (.bank b .loop) LOOP_CTL 0 = false ∧ ∀ c, c.bank = b → IsSafe u.dev c) ∧
    (∃ u, exec (.bknFltLow b t) s = .next u ∧ flag u.dev (.bank b .loop) LOOP_STS 16 = false)) ∧
  (∀ (s : State) (p : Port) (c : Chan) (v : Word), Serves s true (chBlk c) CH_CTRL → isFollower s.dev c = false →
    (bit v 0 = true → bit v 1 = flag s.dev (chBlk c) CH_CTRL 1 →
      let e := forEach (members s.dev c) (store (wakeBank (accessCycle s.dev (portNo p).val) c.bank) p (chBlk c) CH_CTRL 0 v 0x12 0x12) cmpValidate
      flag e (chBlk c) CH_CTRL 0 = false →
      (enCause e c = 0 → ∃ u, exec (.chEnable p c v) s = .next u ∧ flag u.dev (chBlk c) CH_CTRL 0 = true ∧
        flag u.dev (chBlk c) CH_STS 18 = false) ∧
      (enCause e c ≠ 0 → ∃ u, exec (.chEnable p c v) s = .next u ∧ flag u.dev (chBlk c) CH_CTRL 0 = false ∧
        fld u.dev (chBlk c) CH_STS 17 15 = enCause e c ∧ flag u.dev (chBlk c) CH_STS 7 = true)) ∧
    (bit v 0 = false → flag s.dev (chBlk c) CH_CTRL 0 = true →
      ∃ u, exec (.chDisable p c v) s = .next u ∧ flag u.dev (chBlk c) CH_CTRL 0 = false ∧ ∀ m ∈ members s.dev c, IsSafe u.dev m))

/-- The measurement path (R104 to R120, R129). -/
def Obligations.SamplesAndResults : Prop :=
  ∀ (s : State) (c : Chan),
    (∀ (t : TS), FieldCan s t →
      let d := fieldAt s.dev t
      let k := (ch d c).meas
      let w := filtWanted d c
      (∀ (v i : Int) (fv : BitVec 16), onGrid d (fieldNow d) 64 = true → k.modAt ≠ some d.tb.mono → inSlot d c = false →
        vLow < v → v < vHigh → k.shuntNew = none → k.serveNew = none → k.posts = [] →
        (pstate d c.bank ≤ 1 → qeDue d c = false →
          let y := (iSample d c i).1
          ∃ u, exec (.modSample c t v i fv) s = .next u ∧ (ch u.dev c).meas.lastV = v ∧ (ch u.dev c).meas.lastI = y ∧
            (ch u.dev c).meas.q = clampI (-qMax) qMax (k.q + y) ∧ (ch u.dev c).meas.e = clampI (-eMax) eMax (k.e + v * y) ∧
            (ch u.dev c).meas.cicV = cicStep k.cicV v ∧ (ch u.dev c).meas.cicI = cicStep k.cicI y ∧ (ch u.dev c).meas.cum.n = k.cum.n + 1) ∧
        (pstate d c.bank = 2 →
          ∃ u, exec (.modSample c t v i fv) s = .next u ∧ (ch u.dev c).meas.lastV = v ∧ (ch u.dev c).meas.cicV = cicStep k.cicV v ∧
            (ch u.dev c).meas.q = k.q ∧ (ch u.dev c).meas.e = k.e ∧ (ch u.dev c).meas.cicI = k.cicI)) ∧
      (∀ (p : Nat) (v i : Int) (fv : BitVec 16), onGrid d (fieldNow d) 64 = true → k.modAt ≠ some d.tb.mono → k.posts = [p] → p < d.tb.mono →
        k.serveNew = none → (ch d c).mach.segRec = none → (ch d c).mach.provs = [] →
        ∃ u, exec (.modSample c t v i fv) s = .next u ∧ (ch u.dev c).meas.posts = [] ∧
          rd u.dev (chBlk c) CH_RECSEQ = rd d (chBlk c) CH_RECSEQ + 1) ∧
      (pstate d c.bank ≠ 3 → onGrid d (fieldNow d) (64 * w.1) = true →
        (k.filt.ratio ≠ w.1 ∨ k.filt.order ≠ w.2 → ∃ u, exec (.filterOutput c t) s = .next u ∧ (ch u.dev c).meas.filt.ratio = w.1 ∧
          (ch u.dev c).meas.filt.order = w.2 ∧ (ch u.dev c).meas.filt.hist.length = 1 ∧ u.dev.regs = d.regs) ∧
        (∀ sv, k.filt.ratio = w.1 → k.filt.order = w.2 → k.filt.hist.length = w.2 →
          filtDiff w.2 (cicOf k.cicV w.2 :: k.filt.hist.map fun x => x.1) = some sv →
          ∃ u y, exec (.filterOutput c t) s = .next u ∧ rd u.dev (chBlk c) CH_PV = satWord y ∧ (ch u.dev c).meas.vNew = true ∧
            (y = sv / (w.1 ^ w.2 : Nat) ∨ y = sv / (w.1 ^ w.2 : Nat) + 1))) ∧
      (∀ x, k.lineInt = some x → x.endK ≤ max d.tb.fl.cyc (cycleAt d (fieldNow d)) →
        let b := measAt d (ch d c)
        ∃ u r, exec (.lineIntegrationEnd c t) s = .next u ∧ (ch u.dev c).meas.lineInt = none ∧ (ch u.dev c).meas.lineRes = some r ∧
          r.n = b.cum.n - x.start.n ∧ r.sv = b.cum.sv - x.start.sv ∧ r.si = b.cum.si - x.start.si ∧ r.dq = b.q - x.q0 ∧ r.de = b.e - x.e0) ∧
      (onGrid d (fieldNow d) 64 = true → qeDue d c = true →
        ∃ u, exec (.qeclrApply c t) s = .next u ∧ (ch u.dev c).meas.q = 0 ∧ (ch u.dev c).meas.e = 0 ∧ (ch u.dev c).meas.qeclr = none ∧
          ∀ x, (ch d c).mach.step = some x → ∃ y, (ch u.dev c).mach.step = some y ∧ y.q0 = x.q0 - k.q ∧ y.e0 = x.e0 - k.e) ∧
      (∀ m, fld d (chBlk c) CH_AUXCFG 1 0 = m → m = 1 ∨ m = 2 → pstate d c.bank ≠ 3 →
        onGrid d (fieldNow d) (max 1 (fld d (chBlk c) CH_AUXCFG 15 8) * 64000000) = true → measHeld d c = false →
        ∃ u, exec (.auxSlotStart c t) s = .next u ∧ (ch u.dev c).meas.auxFrom = some (fieldNow d)) ∧
      (∀ (x : Nat) (t0 : TS), k.auxFrom = some t0 → 500 * (tapsPerUs : Nat) ≤ tsDiff (fieldNow d) t0 →
        (fld d (chBlk c) CH_AUXCFG 1 0 = 2 → ∃ u, exec (.auxResult c t x) s = .next u ∧ (ch u.dev c).meas.auxFrom = none ∧
          (ch u.dev c).meas.auxAt = some d.tb.mono ∧ fld u.dev (chBlk c) CH_T 15 0 = min 25000 x) ∧
        (fld d (chBlk c) CH_AUXCFG 1 0 = 1 → x < 100000 → ∃ u, exec (.auxResult c t x) s = .next u ∧
          (ch u.dev c).meas.auxFrom = none ∧ fld u.dev (chBlk c) CH_T 15 0 = 0x8000 ∧ flag u.dev (chBlk c) CH_MSTS 5 = true)) ∧
      (recBoundary d k.recSet (fieldNow d) = true → bit k.recSet 30 = false → pstate d c.bank ≤ 1 → rd d (chBlk c) CH_MREC = k.recSet →
        ∃ u, exec (.periodicRecord c t) s = .next u ∧ rd u.dev (chBlk c) CH_RECSEQ = rd d (chBlk c) CH_RECSEQ + 1 ∧
          (ch u.dev c).meas.recFrom = (measAt d (ch d c)).cum ∧ (ch u.dev c).meas.recFl = sinceAt d (ch d c) ∧
          (spoolLevel d < 28352 → u.dev.xc.spool.length = d.xc.spool.length + 1))) ∧
    (∀ (p : Port), Serves s true (chBlk c) CH_MCTL → (ch s.dev c).meas.qeclr = none →
      ∃ u, exec (.qeclr p c) s = .next u ∧ (ch u.dev c).meas = { (ch s.dev c).meas with qeclr := some s.dev.tb.mono })

/-- The rotation of the reserve pair (R121 to R128). -/
def Obligations.ReservePairRotates : Prop :=
  ∀ (s : State) (b : Bank) (t : TS), FieldCan s t →
    let d := fieldAt s.dev t
    let r := (bk d b).rot
    let c := turnChan d b
    (rotAt d b .idle 0 = true → flag d (bRSV b) RSV_CTL 0 = true →
      ∃ u, exec (.rsvTurnStart b t) s = .next u ∧ (bk u.dev b).rot.phase = .settle ∧ (bk u.dev b).rot.turnAt = d.tb.mono ∧
        (bk u.dev b).rot.next = (r.next % 24 + 1) % 24 ∧ fld u.dev (bRSV b) RSV_STS 23 19 = r.next % 24 ∧
        fld u.dev (bRSV b) RSV_STS 18 16 = 1) ∧
    (rotAt d b .settle 100 = true →
      ∃ u, exec (.rsvShadowStart b t) s = .next u ∧ (bk u.dev b).rot = { r with phase := .shadow, since := d.tb.mono } ∧ u.dev.regs = d.regs) ∧
    (∀ dv di, rotAt d b .shadow 2000 = true → onGrid d (fieldNow d) 64 = true → measHeld d c = false →
      ∃ u, exec (.handover b t dv di) s = .next u ∧ (bk u.dev b).rot.phase = .offset ∧ fld u.dev (bRSV b) RSV_STS 18 16 = 2 ∧
        flag u.dev (chBlk c) CH_MSTS 18 = true ∧ rd u.dev (bRSV b) RSV_DV = satWord dv ∧ rd u.dev (bRSV b) RSV_DI = satWord di) ∧
    (rotAt d b .shadow 62000 = true → measHeld d c = true →
      ∃ u, exec (.rsvTurnSkip b t) s = .next u ∧ flag u.dev (bRSV b) RSV_STS 1 = true ∧
        (rd u.dev (bRSV b) RSV_SKIP_CNT).toNat = satInc 0xFFFFFFFF (rd d (bRSV b) RSV_SKIP_CNT).toNat ∧ (bk u.dev b).rot.phase ≠ .shadow) ∧
    (∀ x, rotAt d b .offset 4000 = true → ∃ u, exec (.rsvCalPhase b t true x) s = .next u ∧
      (bk u.dev b).rot = { r with phase := .gain, since := d.tb.mono }) ∧
    (∀ x, rotAt d b .gain 4000 = true → ∃ u, exec (.rsvCalPhase b t true x) s = .next u ∧
      (bk u.dev b).rot = { r with phase := .check, since := d.tb.mono }) ∧
    (∀ x, rotAt d b .check 4000 = true → usesRef d b = false → ∃ u, exec (.rsvCalPhase b t true x) s = .next u ∧
      (bk u.dev b).rot = { r with phase := .reconn, since := d.tb.mono }) ∧
    (∀ x, rotAt d b .offset 4000 = true → r.passed = true → fld d (bRSV b) RSV_SUBST 4 0 = 31 → c.bank = b →
      ∃ u, exec (.rsvCalPhase b t false x) s = .next u ∧ fld u.dev (bRSV b) RSV_SUBST 4 0 = c.inBank ∧
        fld u.dev (bRSV b) RSV_STS 18 16 = 4 ∧ flag u.dev (bRSV b) RSV_STS 2 = true ∧ flag u.dev (bRSV b) RSV_STS 3 = true ∧
        flag u.dev (chBlk c) CH_MSTS 18 = true) ∧
    (rotAt d b .reconn 0 = true → ∃ u, exec (.rsvReconnect b t) s = .next u ∧
      (bk u.dev b).rot = { r with phase := .shadowBack, since := d.tb.mono + msTaps 100 } ∧ fld u.dev (bRSV b) RSV_STS 18 16 = 3) ∧
    (∀ dv di, rotAt d b .shadowBack 2000 = true → onGrid d (fieldNow d) 64 = true → measHeld d c = false →
      shadowBad (shadowShow d b dv di) c dv di = false →
      ∃ u, exec (.handback b t dv di) s = .next u ∧ (bk u.dev b).rot.phase = .selfCal ∧ (bk u.dev b).rot.since = d.tb.mono ∧
        flag u.dev (chBlk c) CH_MSTS 18 = false) ∧
    (rotAt d b .selfCal 100 = true → ∃ u, exec (.rsvSelfCal b t false false) s = .next u ∧ (bk u.dev b).rot.phase = .done ∧
      (bk u.dev b).rot.selfOk = true ∧ fld u.dev (bRSV b) RSV_STS 18 16 = 0) ∧
    (fld d (bRSV b) RSV_STS 18 16 ≠ 5 → ∀ failI, ∃ u, exec (.rsvSelfCal b t true failI) s = .next u ∧
      fld u.dev (bRSV b) RSV_STS 18 16 = 5 ∧ flag u.dev (bRSV b) RSV_STS 4 = true ∧ (bk u.dev b).rot.passed = false ∧ (bk u.dev b).rot.selfOk = false ∧
      flag u.dev (bRSV b) FLT_STS 2 = true) ∧
    (rotAt d b .done 0 = true → msTaps 20000 ≤ d.tb.mono - r.turnAt →
      ∃ u, exec (.rsvTurnEnd b t) s = .next u ∧
        (rd u.dev (bRSV b) RSV_ROT_CNT).toNat = satInc 0xFFFFFFFF (rd d (bRSV b) RSV_ROT_CNT).toNat ∧
        (bk u.dev b).rot.phase = (if flag d (bRSV b) RSV_CTL 0 then .settle else .idle))

/-- Line time (R140 to R148). -/
def Obligations.LineTimeRuns : Prop :=
  (∀ s : State, s.dev.tb.now.toNat / 256 = 2 ^ 56 - 1 →
    ∃ u, exec .tsWrap s = .next u ∧ u.dev.tb.now = 0 ∧ wrapW u.dev = (wrapW s.dev + 1) % 256 ∧ flag u.dev bTB TB_STS 7 = true) ∧
  (∀ (s : State) (t : TS), HostCan s t →
    let d := advance s.dev t
    (announcer d = true → d.tb.hl.next = none → d.tb.relock = none → 0x8000 ≤ hostLt d d.tb.now % 65536 →
      hostLt d d.tb.now / 65536 = d.tb.hl.cyc →
      ∃ u a, exec (.lineAnnounce t) s = .next u ∧ u.dev.tb.hl.next = some a ∧ u.dev.tb.annNew = some a ∧ a.cyc = d.tb.hl.cyc + 1 ∧
        a.start = d.tb.hl.start + lineLenOf d.tb.hl ∧
        a.len = lineLen d ∧ a.relock = false) ∧
    (0 ≤ tsDiff d.tb.now (tsOfTaps (lineEndOf d.tb.hl)) →
      (∀ a, d.tb.hl.next = some a → a.cyc = d.tb.hl.cyc + 1 → a.start = d.tb.hl.start + lineLenOf d.tb.hl →
        ∃ u, exec (.lineCycleBoundary t) s = .next u ∧ u.dev.tb.hl.cyc = a.cyc ∧ u.dev.tb.hl.start = a.start ∧ u.dev.tb.hl.synth = a.synth ∧
          u.dev.tb.hl.relock = a.relock ∧ u.dev.tb.hl.next = none ∧ rd u.dev bTB TB_LINE_PER = BitVec.ofNat 32 (max 1 a.len)) ∧
      (d.tb.hl.next = none → announcer d = false →
        ∃ u, exec (.lineCycleBoundary t) s = .next u ∧ u.dev.tb.hl.cyc = d.tb.hl.cyc + 1 ∧
          u.dev.tb.hl.start = d.tb.hl.start + lineLenOf d.tb.hl ∧ u.dev.tb.hl.miss = d.tb.hl.miss + 1 ∧ u.dev.tb.hl.synth = true ∧
          rd u.dev bTB TB_LINE_PER = BitVec.ofNat 32 (lineLenOf d.tb.hl) ∧ flag u.dev bTB TB_STS 6 = true)) ∧
    (followsLine d = true →
      let e := d.tb.hl.start + sinceStart d.tb.hl d.tb.now
      (∀ k err, edgeCycle d e = some (k, err) → ∃ u, exec (.lineSyncEdge t) s = .next u ∧ rd u.dev bTB TB_LINE_ERR = satWord err ∧
        u.dev.tb.lastAcc = some (k, e) ∧ u.dev.tb.edgeIn = true) ∧
      (edgeCycle d e = none → ∃ u, exec (.lineSyncEdge t) s = .next u ∧ flag u.dev bTB TB_STS 2 = true ∧ u.dev.tb.edgeIn = true ∧
        (rd u.dev bTB TB_LINE_REJ).toNat = satInc 0xFFFFFFFF (rd d bTB TB_LINE_REJ).toNat)) ∧
    (followsLine d = true → d.tb.line = .locked → 3 ≤ d.tb.noEdge →
      ∃ u, exec (.lineloss t) s = .next u ∧ u.dev.tb.line = .lost ∧ flag u.dev bTB TB_STS 3 = true)) ∧
  (∀ (s : State) (p : Port), portServes s.dev true (regAddr bTB (TB_CTL + 0x4000)) = true → maskIn s.dev.cleared (regKey bTB TB_CTL) = 0 →
    flag s.dev bTB TB_CTL 0 = false → flag s.dev bTB TB_CTL 3 = false →
    ∃ u, exec (.lsrcWrite p) s = .next u ∧ flag u.dev bTB TB_CTL 3 = true ∧ u.dev.tb.line = .free ∧ u.dev.tb.relock = none)

/-- Alignment to a time source (R149 to R157, R319, R434, R443). -/
def Obligations.TimeComesFromSource : Prop :=
  (∀ (s : State) (p : Port) (v : Word), Serves s true bTB TB_CTL → bit v 0 = true → flag s.dev bTB TB_CTL 0 = false →
    ∃ u, exec (.timeEnable p v) s = .next u ∧ flag u.dev bTB TB_CTL 0 = true ∧ (sourceless u.dev = true → aligned u.dev = true)) ∧
  (∀ (s : State) (t : TS) (f : SlFrame), HostCan s t →
    let d := advance s.dev t
    ((slPort d .d).lock = true → (slPort d .d).wait = [] → (slPort d .d).replay.length < 64 → tbConf d = 2 → flag d bTB TB_CTL 0 = true →
      onHostGrid d d.tb.now 65536 = true →
      ∃ u, exec (.timeSync f false t) s = .next u ∧ u.dev.tb.slx.t1 = some d.tb.now ∧ u.dev.sl.srcSeq = d.sl.srcSeq + 1) ∧
    (Arrives d .u f → isTime f 0 = true →
      ∃ u, exec (.timeSync f true t) s = .next u ∧ u.dev.tb.slx.t2 = some d.tb.now ∧ u.dev.tb.slx.t3 = none) ∧
    ((slPort d .u).lock = true → (slPort d .u).wait = [] → (slPort d .u).replay.length < 64 → d.tb.slx.t2.isSome = true → d.tb.slx.t3 = none →
      ∃ u, exec (.timeDelay f false t) s = .next u ∧ u.dev.tb.slx.t3 = some d.tb.now ∧ u.dev.sl.srcSeq = d.sl.srcSeq + 1) ∧
    (∀ t1, Arrives d .d f → isTime f 1 = true → d.tb.slx.t1 = some t1 →
      ∃ u, exec (.timeDelay f true t) s = .next u ∧ u.dev.tb.slx.t4 = some d.tb.now ∧ u.dev.sl.srcSeq = d.sl.srcSeq + 1) ∧
    (∀ t2 t3, Arrives d .u f → isTime f 2 = true → d.tb.slx.t2 = some t2 → d.tb.slx.t3 = some t3 → takesLink d = true →
      flag d bTB TB_CTL 0 = true → tsValid (tsAt f.payload 1) = true → tsValid (tsAt f.payload 3) = true →
      let x := (delayOffset d 0 (tsAt f.payload 1) t2 t3 (tsAt f.payload 3)).1
      let dly := x.1
      let o := x.2
      ∃ u, exec (.timeFollow f t) s = .next u ∧ rd u.dev bTB TB_HOPDLY = satWord dly ∧ rd u.dev bTB TB_TOFS = satWord o ∧
        (aligned d = true → u.dev.tb.slew = o ∧ u.dev.tb.now = d.tb.now) ∧
        (aligned d = false → u.dev.tb.now = tsAdd d.tb.now (-o) ∧ aligned u.dev = true ∧ fld u.dev bTB TB_WRAPCNT 7 0 = bits (f.payload.getD 0 0) 15 8)) ∧
    (Arrives d .u f → isTime f 3 = true → announcer d = false → d.tb.hl.cyc < (annOf d f.payload).cyc →
      ∃ u, exec (.announce f t) s = .next u ∧ u.dev.tb.hl.next = some (annOf d f.payload)) ∧
    (flag d bTB TB_TSYNC_CFG 8 = true → onHostGrid d d.tb.now (2 ^ d.tb.perF) = true →
      ∃ u, exec (.tsyncOutPulse t) s = .next u ∧ u.dev.tb.tsyncOut = some d.tb.now ∧ u.dev.tb.perF = fld d bTB TB_TSYNC_CFG 4 0) ∧
    (∀ marker, flag d bTB TB_TSYNC_CFG 9 = true →
      ∃ u, exec (.tsyncInPulse t marker) s = .next u ∧ u.dev.tb.echoOut = some (tsAdd d.tb.now (rd d bTB TB_ECHO_LAT).toNat) ∧
        u.dev.tb.tsyncLast = some d.tb.mono ∧ trigOutHigh u.dev (d.tb.mono + (rd d bTB TB_ECHO_LAT).toNat) = true) ∧
    (flag d bTB TB_TSYNC_CFG 9 = false → takesTsync d = true → flag d bTB TB_CTL 0 = true →
      (tsset d ≠ 0 → aligned d = false →
        let src := tsOfTaps (nearestPer 26 (tsTaps (tsset d)) + (rd d bTB TB_SKEW).toInt)
        ∃ u, exec (.tsyncInPulse t true) s = .next u ∧ u.dev.tb.now = tsAdd d.tb.now (-(tsDiff d.tb.now src)) ∧ aligned u.dev = true ∧
          tsset u.dev = 0) ∧
      (aligned d = true →
        let src := tsOfTaps (nearestPer 16 ((tsTaps d.tb.now : Int) - (rd d bTB TB_SKEW).toInt) + (rd d bTB TB_SKEW).toInt)
        ∃ u, exec (.tsyncInPulse t false) s = .next u ∧ u.dev.tb.slew = tsDiff d.tb.now src ∧
          rd u.dev bTB TB_TOFS = satWord (tsDiff d.tb.now src))) ∧
    (flag d bTB TB_CTL 0 = true → sourceGone d = true → ∃ u, exec (.timeSourceLoss t) s = .next u ∧ flag u.dev bTB TB_STS 18 = true) ∧
    (sourceGone d = false → ∃ u, exec (.timeSourceReturn t) s = .next u ∧ flag u.dev bTB TB_STS 18 = false)) ∧
  (∀ (s : State) (p : Port) (hi : Word), Serves s true bTB TB_TSSET_HI → (portSt s.dev p).wr = none → lockOpen s.dev bTB = true →
    let x : TS := BitVec.ofNat 64 ((rd s.dev bTB TB_TSSET_LO).toNat + 0x100000000 * hi.toNat)
    ∃ u, exec (.tssetWrite p hi) s = .next u ∧ lockOpen u.dev bTB = false ∧
      rd u.dev bTB TB_TSSET_HI = (if tsValid x then hi else rd s.dev bTB TB_TSSET_HI) ∧
      (tsValid x = false → flag u.dev bTB ACC_STS 0 = true)) ∧
  (∀ (s : State),
    (∀ (p : Port) (v : Word), Serves s true bTB TB_CAL → bit v 31 = true → s.dev.tb.calRun = false →
      ∃ u, exec (.hopCalStart p v) s = .next u ∧ u.dev.tb.calRun = true ∧ rd u.dev bTB TB_CALRES = 0 ∧ flag u.dev bTB TB_CAL 30 = true ∧
        fld u.dev bTB TB_CAL 15 0 = bits v 15 0) ∧
    (∀ t, HostCan s t → (advance s.dev t).tb.calRun = true → (advance s.dev t).tb.calDiffs.length = 256 →
      let xs := (advance s.dev t).tb.calDiffs
      ∃ u, exec (.hopCalDone t) s = .next u ∧ u.dev.tb.calRun = false ∧ flag u.dev bTB TB_CAL 30 = false ∧
        flag u.dev bTB TB_CALRES 31 = decide (xs.foldl max (xs.getD 0 0) - xs.foldl min (xs.getD 0 0) ≤ 16)) ∧
    (s.dev.tb.refclk = true → (linkMember s.dev && (slPort s.dev .u).lock) = false → ∃ u, exec .refloss s = .next u ∧ u.dev.tb.refclk = false ∧
      flag u.dev bDEV DEV_STS 18 = false ∧ flag u.dev bDEV DEV_STS 2 = true ∧ flag u.dev bTB TB_STS 18 = true) ∧
    (s.dev.tb.refclk = true → linkMember s.dev = true → (slPort s.dev .u).lock = true →
      exec .refloss s = .next { s with dev := modTb s.dev fun k => { k with refclk := false } }) ∧
    (hostUp s.dev = true → s.dev.tb.refclk = false → ∃ u, exec .refclkReturn s = .next u ∧ u.dev.tb.refclk = true ∧
      flag u.dev bDEV DEV_STS 18 = true ∧ (flag s.dev bDEV DEV_STS 18 = false → sourceGone s.dev = false → flag u.dev bTB TB_STS 18 = false)))

/-- TDCs and tap tables (R160 to R168). -/
def Obligations.TdcsAndTapTables : Prop :=
  (∀ (s : State) (l : Fin 390) (hits : List Nat), hitsWhole hits = true →
    let x := tableOf s.dev hits
    let worst := (tapDiffs (tapsOf s.dev l.val) x.1).foldl max 0
    ∃ u, exec (.codeDensityDone l hits) s = .next u ∧ u.dev.tb.taps = s.dev.tb.taps ∧
      u.dev.tb.tapNew = (if worst ≤ 4 then s.dev.tb.tapNew.filter (fun y => y.1 != l.val) ++ [(l.val, x.1)] else s.dev.tb.tapNew) ∧
      ∀ c : Chan, l.val / 2 = c.val →
        (worst ≤ 4 → (rd u.dev (bankOf c .tdc) TDC_CDCNT).toNat = satInc 0xFFFFFFFF (rd s.dev (bankOf c .tdc) TDC_CDCNT).toNat) ∧
        (4 < worst → flag u.dev (bankOf c .tdc) FLT_STS 1 = true ∧
          (rd u.dev (bankOf c .tdc) TDC_CDREJ).toNat = satInc 0xFFFFFFFF (rd s.dev (bankOf c .tdc) TDC_CDREJ).toNat)) ∧
  (∀ (s : State) (l : Fin 390) (t : TS) (tab : List Byte),
    (hostLine l.val = true → HostCan s t) → (hostLine l.val = false → FieldCan s t) →
    let d := if hostLine l.val then advance s.dev t else fieldAt s.dev t
    lineGrid d l.val t = true → d.tb.tapNew.find? (fun y => y.1 == l.val) = some (l.val, tab) → tab.length = 192 →
    ∃ u, exec (.tapTableApply l t) s = .next u ∧ tapsOf u.dev l.val = tab ∧
      u.dev.tb.tapNew = d.tb.tapNew.filter fun y => y.1 != l.val) ∧
  (∀ (s : State) (k : Fin 4) (rising : Bool) (t : TS) (j : Fin 192) (st : TS), HostCan s t → t.toNat % 256 = 0 →
    let d := doTapApply ⟨384 + k.val, by omega⟩ t (advance s.dev t)
    let q := sysTdc d k.val
    hitStamp d (384 + k.val) t j = some st → d.tb.sys.length = 4 → edgeSel (fld d bTB (scfgOff k.val) 5 4) rising = true →
    (∀ x, q.last = some x → 320 ≤ (tsDiff st x).natAbs) →
    flag d bTB (scfgOff k.val) 0 = true → flag d bTB (scfgOff k.val) 1 = false → fld d bTB (scfgOff k.val) 11 10 = 0 →
    ∃ u, exec (.systemTdcEdge k rising ⟨t, j⟩) s = .next u ∧ (sysTdc u.dev k.val).last = some st ∧
      (q.queue.length < 256 → q.ovf = false → (sysTdc u.dev k.val).queue =
        q.queue ++ [⟨st, 0, tdcTag (k.val + 1) rising false false false false (flag d bTB TB_STS 18)⟩]) ∧
      (256 ≤ q.queue.length → (sysTdc u.dev k.val).queue = q.queue ∧
        (sysTdc u.dev k.val).drop = satInc 0xFFFF q.drop ∧ (sysTdc u.dev k.val).ovf = true)) ∧
  (∀ (s : State) (p : Port), (portSt s.dev p).rd = none →
    (∀ k : Fin 4, s.dev.tb.sys.length = 4 → Serves s false bTB (scfgOff k.val + 0x1C) →
      ∃ u, exec (.tdcQueuePop p (regAddr bTB (scfgOff k.val + 0x1C))) s = .next u ∧
        (portSt u.dev p).rdata = tdcWord (sysTdc s.dev k.val).queue.head? 3 ∧ (sysTdc u.dev k.val).queue = (sysTdc s.dev k.val).queue.drop 1) ∧
    (∀ c : Chan, Serves s false (bankOf c .tdc) (0x10C + 0x10 * c.inBank) →
      ∃ u, exec (.tdcQueuePop p (regAddr (bankOf c .tdc) (0x10C + 0x10 * c.inBank))) s = .next u ∧
        (portSt u.dev p).rdata = tdcWord (ch s.dev c).tdc.queue.head? 3 ∧ (ch u.dev c).tdc.queue = (ch s.dev c).tdc.queue.drop 1))

/-- Captures (R227 to R242). -/
def Obligations.CapturesFillAndEnd : Prop :=
  ∀ (s : State) (c : Chan),
    (∀ (t : TS), FieldCan s t →
      let d := fieldAt s.dev t
      let k := (ch d c).cap
      let blk := bankOf c .cap
      let o := 0x20 * c.inBank
      (onGrid d (fieldNow d) (64 * capDec d c) = true → pstate d c.bank ≤ 1 → k.ratio = capDec d c → 3 ≤ k.hist.length →
        ∃ u x, exec (.captureOutput c t) s = .next u ∧ (ch u.dev c).cap.outNo = k.outNo + 1 ∧ (ch u.dev c).cap.last = some x ∧
          x.k = k.outNo + 1 ∧ (ch u.dev c).cap.prev = k.last ∧
          let a := capAddr d c (capIdx d c (k.outNo + 1))
          (capStores k (k.outNo + 1) (d.tb.mono - 3 * capP d c / 2) = true → (ch u.dev c).cap.lastK = k.outNo + 1 ∧
            ∀ y, (y < a ∨ a + 6 ≤ y) → u.mem.read y = s.mem.read y) ∧
          (capBusy k = false → u.mem = s.mem)) ∧
      (∀ f, k.st = .armed → k.fires = [f] → f.k ≤ k.outNo →
        ∃ u a, exec (.captureFire c t) s = .next u ∧ (ch u.dev c).cap.st = .filling ∧ (ch u.dev c).mach.trg = true ∧
          flag u.dev blk (CAP_CSTS + o) 1 = true ∧ (ch u.dev c).cap.anchor = some a ∧ a.k = f.k ∧ a.f = f.f ∧ a.psrc = f.psrc ∧
          (ch u.dev c).cap.fires = [] ∧ u.mem = s.mem ∧
          (ch u.dev c).cap.settle =
            (if k.group = 0 then none else some (d.tb.mono + max 1 (fld d blk CAP_GSETTLE 15 0) * tapsPerUs))) ∧
      (∀ x, k.settle = some x → x ≤ d.tb.mono →
        ∃ u, exec (.settleWindowClose c t) s = .next u ∧ (ch u.dev c).cap = { k with settle := none } ∧ u.dev.regs = d.regs) ∧
      (∀ a, k.st = .filling → k.anchor = some a → a.k + k.post - 1 ≤ k.outNo → k.settle = none ∨ k.settle = some d.tb.mono →
        ∃ u, exec (.captureEnd c t) s = .next u ∧ (ch u.dev c).cap.st = .done ∧ flag u.dev blk (CAP_CSTS + o) 2 = true ∧
          rd u.dev (chBlk c) CH_RECSEQ = rd d (chBlk c) CH_RECSEQ + 1 ∧ u.mem = s.mem ∧
          (spoolLevel d < 28352 → u.dev.xc.spool.length = d.xc.spool.length + 1))) ∧
    (∀ (p : Port), Serves s true (bankOf c .cap) (CAP_CCMD + 0x20 * c.inBank) →
      (capBusy (ch s.dev c).cap = true →
        ∃ u, exec (.disarm p c) s = .next u ∧ (ch u.dev c).cap.st = .done ∧
          flag u.dev (bankOf c .cap) (CAP_CSTS + 0x20 * c.inBank) 3 = true ∧ u.mem = s.mem) ∧
      ((ch s.dev c).cap.st = .armed →
        ∃ u, exec (.hostFire p c) s = .next u ∧ (ch u.dev c).cap = { (ch s.dev c).cap with hostReq := (ch s.dev c).cap.hostReq.or (some (nextMod s.dev)) } ∧
          u.dev.regs = s.dev.regs)) ∧
    (∀ (p : Port) (v : Word), Serves s true (bankOf c .cap) (CAP_CALLOC + 0x20 * c.inBank) → capBusy (ch s.dev c).cap = false →
      let o := CAP_CALLOC + 0x20 * c.inBank
      let old := rd s.dev (bankOf c .cap) o
      let w := merge old v 0x07FF03FF
      (allocOk s.dev c (bits w 9 0) (bits w 26 16) = true →
        ∃ u, exec (.capAllocWrite p c v) s = .next u ∧ rd u.dev (bankOf c .cap) o = w ∧ u.mem = s.mem) ∧
      (allocOk s.dev c (bits w 9 0) (bits w 26 16) = false → w ≠ old →
        ∃ u, exec (.capAllocWrite p c v) s = .next u ∧ rd u.dev (bankOf c .cap) o = old ∧
          flag u.dev (bankOf c .cap) CAP_STS 0 = true))

/-- Moulds and profiles (R243 to R261). -/
def Obligations.MouldsAndProfiles : Prop :=
  ∀ (s : State),
    (∀ (p : Port) (b : Bank) (m : Fin 16) (v : Word), bit v 31 = true →
      (let o := MLD_CFG + 4 * m.val
       Serves s true (.bank b .mld) o → flag s.dev (.bank b .mld) o 31 = false →
        ∃ u, exec (.mouldEnable p b m v) s = .next u ∧ flag u.dev (.bank b .mld) o 31 = mldMayEnable s.mem u.dev b m.val ∧
          (mldMayEnable s.mem u.dev b m.val = false → flag u.dev (.bank b .mld) MLD_STS 1 = true) ∧ u.mem = s.mem) ∧
      (let o := EIS_CFG0 + 0x80 * m.val
       Serves s true (.bank b .eis) o → flag s.dev (.bank b .eis) o 31 = false →
        ∃ u, exec (.eisProfileEnable p b m v) s = .next u ∧ flag u.dev (.bank b .eis) o 31 = eisProfileOk u.dev b m.val ∧
          (eisProfileOk u.dev b m.val = false → flag u.dev (.bank b .eis) EIS_STS 0 = true) ∧ u.mem = s.mem) ∧
      (let o := PLS_CFG + 0x20 * m.val
       Serves s true (.bank b .eis) o → flag s.dev (.bank b .eis) o 31 = false →
        ∃ u, exec (.pulseProfileEnable p b m v) s = .next u ∧ flag u.dev (.bank b .eis) o 31 = plsProfileOk u.dev b m.val ∧
          (plsProfileOk u.dev b m.val = false → flag u.dev (.bank b .eis) EIS_STS 1 = true) ∧ u.mem = s.mem)) ∧
    (∀ (c : Chan) (t : TS), FieldCan s t →
      let d := fieldAt s.dev t
      let k := ch d c
      let blk := bankOf c .mld
      (∀ v, k.cap.viols = [v] →
        (k.mach.step = none → ∃ u, exec (.mouldViolation c t) s = .next u ∧ (ch u.dev c).cap.viols = [] ∧ (ch u.dev c).mach.mld = true ∧
          flag u.dev blk MLD_STS 2 = true ∧ (rd u.dev blk MLD_VIOL_CNT).toNat = satInc 0xFFFFFFFF (rd d blk MLD_VIOL_CNT).toNat) ∧
        (∀ x, k.mach.step = some x → x.started = true → v.step = k.mach.counter →
          (v.bind.action = 0 → ∃ u, exec (.mouldViolation c t) s = .next u ∧ (ch u.dev c).cap.viols = [] ∧ flag u.dev blk MLD_STS 2 = true ∧
            flag u.dev blk MLD_STS 3 = true ∧ ∀ m ∈ members d c, IsSafe u.dev m) ∧
          (v.bind.action = 1 → x.ending = none → ∃ u, exec (.mouldViolation c t) s = .next u ∧ (ch u.dev c).cap.viols = [] ∧
            (ch u.dev c).mach.step = some { x with ending := some (6, v.bind.mould.val) } ∧ flag u.dev blk MLD_STS 2 = true) ∧
          (v.bind.action = 2 → x.ending = none → ∃ u, exec (.mouldViolation c t) s = .next u ∧ (ch u.dev c).cap.viols = [] ∧
            (ch u.dev c).mach.step = some { x with ending := some (6, 0x80 + v.bind.mould.val), branch := some v.bind.handler } ∧
            flag u.dev blk MLD_STS 2 = true))) ∧
      (∀ x p, k.mach.step = some x → x.kind = .eis p → x.started = true → k.eis.smp.length = eisM d c.bank p.val * eisN0 d c.bank p.val →
        0 ≤ tsDiff (fieldNow d) (eisEndAt d c p.val) → tsDiff (fieldNow d) (eisEndAt d c p.val) ≤ 2867200 →
        ∃ u, exec (.eisResultsReady c t) s = .next u ∧ (ch u.dev c).eis = { k.eis with ready := true } ∧ u.dev.regs = d.regs))

/-- The ledger's events (R276 to R280). -/
def Obligations.LedgerActs : Prop :=
  ∀ (s : State),
    (∀ (c : Chan) (t : TS) (r : LedReq), FieldCan s t →
      let d := fieldAt s.dev t
      reqOf d.led.expired c = some r → (ch d c).mach.step.isSome = true →
        ∃ u, exec (.ledgerto c t) s = .next u ∧ flag u.dev bLED LED_STS 2 = true ∧ (ch u.dev c).mach.step = none ∧
          (rd u.dev bLED LED_TO_CNT).toNat = satInc 0xFFFFFFFF (rd d bLED LED_TO_CNT).toNat ∧
          fld u.dev (chBlk c) CH_TERM 15 0 = 9 ∧ reqOf u.dev.led.expired c = none) ∧
    (∀ (p : Port) (v : Word), Serves s true bLED LED_CTL →
      ∃ u, exec (.ledgerEnable p v) s = .next u ∧ flag u.dev bLED LED_CTL 0 = bit v 0 ∧ u.dev.led = s.dev.led ∧ u.mem = s.mem) ∧
    (∀ (t : TS) (r : LedDue), FieldCan s t →
      let d := fieldAt s.dev t
      d.led.due = some r → spoolLevel d < 28352 →
        ∃ u, exec (.ledgerRecord t) s = .next u ∧ u.dev.led.due = none ∧ u.dev.led.seq = d.led.seq + 1 ∧ u.dev.led.lost = 0 ∧
          u.dev.xc.spool.length = d.xc.spool.length + 1 ∧ u.dev.regs = d.regs) ∧
    (∀ (t : TS), FieldCan s t →
      let d := fieldAt s.dev t
      d.led.overDue = true →
        ∃ u, exec (.ledover t) s = .next u ∧ u.dev.led.overDue = false ∧ flag u.dev bLED LED_STS 4 = true ∧
          (flag d bLED LED_CTL 2 = true → flag u.dev bLED LED_STS 16 = true))

/-- Resting banks (R281 to R286). -/
def Obligations.BanksRestAndWake : Prop :=
  ∀ (s : State) (b : Bank) (t : TS), FieldCan s t →
    let d := fieldAt s.dev t
    let q := (bk d b).seq
    let r := resumeUs (pstate d b) * tapsPerUs
    (q.restHeld = true → restCond d b = true → q.wakeAt = none → restChosen d b ≠ pstate d b → restChosen d b ≠ 0 →
      0 ≤ sinceStart d.tb.fl (fieldNow d) → sinceStart d.tb.fl (fieldNow d) < 10240 →
      ∃ u, exec (.powerStateEntry b t) s = .next u ∧ pstate u.dev b = restChosen d b ∧ (∀ x, x ≠ b → pstate u.dev x = pstate d x) ∧
        u.mem = s.mem) ∧
    (∀ x, x ∈ plannedAt s.mem d b → (d.tb.mono : Int) ≤ x → x ≤ d.tb.mono + (r : Nat) → pstate d b ≠ 0 → q.wakeAt = none →
      ∃ u, exec (.plannedWake b t) s = .next u ∧ (bk u.dev b).seq = { q with wakeAt := some (d.tb.mono + r) } ∧ u.dev.regs = d.regs) ∧
    (wakeCause d b = true → pstate d b ≠ 0 → q.wakeAt = none →
      ∃ u, exec (.wake b t) s = .next u ∧ (bk u.dev b).seq = { q with wakeAt := some (d.tb.mono + r) } ∧ u.dev.regs = d.regs) ∧
    (∀ x, q.wakeAt = some x → x ≤ d.tb.mono →
      ∃ u, exec (.resumeComplete b t) s = .next u ∧ pstate u.dev b = 0 ∧ (bk u.dev b).seq.wakeAt = none ∧
        (bk u.dev b).rot = (if 2 ≤ pstate d b then { (bk d b).rot with since := d.tb.mono } else (bk d b).rot) ∧ ∀ y, y ≠ b → pstate u.dev y = pstate d y) ∧
    (∀ vs : List Int, pstate d b = 3 → msTaps 10000 ≤ d.tb.mono - q.ocvAt →
      ∃ u, exec (.ocvRead b t vs) s = .next u ∧ (bk u.dev b).seq.ocvAt = q.ocvAt + (d.tb.mono - q.ocvAt) / msTaps 10000 * msTaps 10000 ∧
        ∀ n, n < 24 → vLow < vs.getD n 0 → vs.getD n 0 < vHigh →
          rd u.dev (chBlk (b.chan n)) CH_PV = BitVec.ofInt 32 (vs.getD n 0) ∧ (ch u.dev (b.chan n)).meas.vNew = true)

/-- Comparators (R287 to R304). -/
def Obligations.ComparatorsGuard : Prop :=
  ∀ (s : State),
    (∀ (c : Chan) (k : Comparator) (out : Bool) (t : TS), FieldCan s t →
      let d := fieldAt s.dev t
      let o := cmpOff CMP_STS c
      let blk := bankOf c .cmp
      cmpCont d c = true → inCheck d c = false → cmpValid d c = true → (ch d c).cmp.onAt = none → flag d blk o (16 + cmpNo k) ≠ out →
        (∃ u, exec (.comparatorTransition c k out t) s = .next u ∧ flag u.dev blk o (16 + cmpNo k) = out ∧ flag u.dev blk o (cmpNo k) = true ∧
          rd u.dev blk (cmpOff CMP_TS_LO c) = t.truncate 32 ∧ rd u.dev blk (cmpOff CMP_TS_HI c) = (t >>> 32).truncate 32) ∧
        (k = .oc → out = true → flag d blk (cmpOff CMP_CFG c) 4 = true →
          ∃ u, exec (.comparatorTransition c k out t) s = .next u ∧ FaultSafe d u.dev c)) ∧
    (∀ (c : Chan) (ov uv oc rp : Bool) (t : TS), FieldCan s t →
      let d := fieldAt s.dev t
      let o := cmpOff CMP_STS c
      let blk := bankOf c .cmp
      cmpCont d c = false → inCheck d c = false → isTick d c.bank (tsAdd (fieldNow d) (-(2 * tapsPerUs : Nat))) = true →
        ∃ u, exec (.sampledDecision c ov uv oc rp t) s = .next u ∧ flag u.dev blk o 16 = ov ∧ flag u.dev blk o 17 = uv ∧
          flag u.dev blk o 18 = oc ∧ flag u.dev blk o 19 = rp) ∧
    (∀ t, canBe (fieldNow s.dev) t = true →
      ∃ u, exec (.filkRelease t) s = .next u ∧ u.dev.pwr.filk = true ∧ ∀ b, flag u.dev (.bank b .cmp) CMP_ILK 16 = false) ∧
    (∀ (p : Port) (b : Bank) (mask : BitVec 24), Serves s true (.bank b .cmp) CMP_SCHK → mask ≠ 0 →
      ((∀ c, c.bank = b → mask.toNat.testBit c.inBank = true → flag s.dev (chBlk (leadOf s.dev c)) CH_CTRL 0 = false) →
        ∃ u, exec (.selfCheck p b mask) s = .next u ∧ flag u.dev (.bank b .cmp) CMP_SCRES 31 = true ∧
          (bk u.dev b).cmp.schk = (bk s.dev b).cmp.schk ++ [(s.dev.tb.mono, mask.toNat)] ∧
          ∀ c, c.bank = b → mask.toNat.testBit c.inBank = true → cmpValid u.dev c = false) ∧
      (∀ c, c.bank = b → mask.toNat.testBit c.inBank = true → flag s.dev (chBlk (leadOf s.dev c)) CH_CTRL 0 = true →
        ∃ u, exec (.selfCheck p b mask) s = .next u ∧ flag u.dev (.bank b .cmp) ACC_STS 0 = true ∧ u.dev.banks = s.dev.banks)) ∧
    (∀ (b : Bank) (t : TS) (x mask : Nat), FieldCan s t →
      let d := fieldAt s.dev t
      (bk d b).cmp.schk = [(x, mask)] → x + 20 * tapsPerUs ≤ d.tb.mono →
        ∃ u, exec (.selfCheckDone b t []) s = .next u ∧ (bk u.dev b).cmp.schk = [] ∧ flag u.dev (.bank b .cmp) CMP_SCRES 31 = false ∧
          ∀ c, c.bank = b → mask.testBit c.inBank = true → flag u.dev (.bank b .cmp) CMP_SCRES c.inBank = false ∧
            (ch u.dev c).cmp.onAt = some d.tb.mono)

/-- Shelf Link requests and forwarding (R312 to R315). -/
def Obligations.LinkRequestsAnswered : Prop :=
  ∀ (s : State) (q : Side) (f : SlFrame),
    (∀ (k : Blk) (off i : Nat) (r : RegDef) (ws : List Word), Asks s.dev q f 1 → f.payload = regAddr k off :: ws → off < 0x4000 → off % 4 = 0 →
      regAt k off = some (r, i) → (k = bMSP → off ≠ MSP_XDATA) → (blkField k = true → s.dev.pwr.fup = true ∧ s.dev.xc.up = true) →
      (portSt s.dev (portOf q)).rd = none →
      ∃ u, exec (.regRd q f) s = .next u ∧ u.mem = s.mem ∧
        Answers u f [0, readVal (accessCycle (slForward (slAccept s.dev q f).2 q f) (portNo (portOf q)).val) (portOf q) k off]) ∧
    (∀ (b : Bank) (i : Nat), s.dev.pwr.fup = true → s.dev.xc.up = true →
      (∀ (v : Word) (ws : List Word), Asks s.dev q f 2 → f.payload = wordN (waveAddr b i) :: v :: ws → waveWords i 1 →
        ∃ u, exec (.regWr q f) s = .next u ∧ u.mem.read32 (waveAddr b i) = v ∧ (f.dmode.val ≠ 1 → Answers u f [0, 0]) ∧
          ∀ x, (x < waveAddr b i ∨ waveAddr b i + 4 ≤ x) → u.mem.read x = s.mem.read x) ∧
      (∀ (w : Word) (data : List Word), Asks s.dev q f 3 → f.payload = wordN (waveAddr b i) :: w :: data → bit w 31 = true →
        bits w 8 0 = data.length → 1 ≤ data.length → data.length ≤ 256 → waveWords i data.length →
        ∃ u, exec (.regBurst q f) s = .next u ∧ Answers u f [0, wordN data.length] ∧
          ∀ j v, data[j]? = some v → u.mem.read32 (waveAddr b (i + j)) = v) ∧
      (∀ (n : Nat) (ws : List Word), Asks s.dev q f 4 → f.payload = wordN (waveAddr b i) :: wordN n :: ws → 1 ≤ n → n ≤ 1024 → waveWords i n →
        ∃ u, exec (.memRd q f) s = .next u ∧ u.mem = s.mem ∧
          Answers u f (0 :: (List.range n).map fun j => s.mem.read32 (waveAddr b (i + j)))) ∧
      (∀ (data : List Word), Asks s.dev q f 5 → f.payload = wordN (waveAddr b i) :: wordN data.length :: data → 1 ≤ data.length →
        data.length ≤ 1024 → waveWords i data.length →
        ∃ u, exec (.memWr q f) s = .next u ∧ (f.dmode.val ≠ 1 → Answers u f [0]) ∧
          ∀ j v, data[j]? = some v → u.mem.read32 (waveAddr b (i + j)) = v)) ∧
    (∀ n, n ∈ [6, 0xA, 0xF] → Asks s.dev q f n → f.dmode.val ≠ 1 →
      ∃ u, exec (.slFrameForward q f) s = .next u ∧ Answers u f [6]) ∧
    (∀ o, (slAccept s.dev q f).1 = true → slMine s.dev f = false → ownEvent s.dev q f = false → slOut s.dev q f = some o →
      ∃ u, exec (.slFrameForward q f) s = .next u ∧
        ∃ g ∈ portFrames u.dev o, g.payload = f.payload ∧ g.tag = f.tag ∧ g.src = f.src ∧ g.seq = f.seq ∧ g.hops.val = f.hops.val + 1)

/-- Replay and triggers (R310, R316 to R318). -/
def Obligations.LinkReplaysAndTriggers : Prop :=
  ∀ (s : State) (q : Side),
    (∀ (l : Fin 4096) (x : Sent) (r : List Sent), fromLseq l.val (slPort s.dev q).replay = some (x :: r) →
      (∃ u ys, exec (.ack q l) s = .next u ∧ (slPort u.dev q).replay = r ++ ys ∧ (slPort u.dev q).idleAt = s.dev.tb.mono) ∧
      ((∀ y ∈ x :: r, y.resends < 15) → ∃ u ys, exec (.nak q l) s = .next u ∧
        (slPort s.dev q).replay = ys ++ x :: r ∧
        (slPort u.dev q).replay = ys ++ (x :: r).map (fun y => { y with resends := y.resends + 1 }))) ∧
    (∀ t, HostCan s t → let d := advance s.dev t
      let p := slPort d q
      p.lock = true → p.replay ≠ [] → 20 * tapsPerUs ≤ d.tb.mono - p.idleAt → (∀ y ∈ p.replay, y.resends < 15) →
      ∃ u, exec (.replayTimeout q t) s = .next u ∧ (slPort u.dev q).replay = p.replay.map (fun y => { y with resends := y.resends + 1 }) ∧
        (slPort u.dev q).idleAt = d.tb.mono) ∧
    (∀ (m : TrigMsg), (trigOk s.dev q m).1 = true →
      let passes (u : State) : Prop := u.mem = s.mem ∧
        ((slPort s.dev (otherSide q)).lock = true → ∃ g, (slPort u.dev (otherSide q)).trigTx = some g ∧ g.kind = m.kind ∧
          g.group = m.group ∧ g.ts = m.ts ∧ g.origin = m.origin ∧ g.hops.val = (m.hops.val + 1) % 64)
      let acts := s.dev.xc.up = true ∧ s.dev.pwr.fup = true
      let grouped (k : Capture) := k.group = 9 ∧ k.slgrp = m.group.toNat
      (m.kind.val = 0 → ∃ u, exec (.trigFire q m) s = .next u ∧ passes u ∧
        (acts → ∀ c, (ch s.dev c).cap.st = .armed → grouped (ch s.dev c).cap →
          (ch u.dev c).cap.st = .filling ∧ (ch u.dev c).mach.trg = true)) ∧
      (m.kind.val = 1 → ∃ u, exec (.trigArm q m) s = .next u ∧ passes u ∧
        (acts → ∀ c, (ch s.dev c).cap.st = .primed → grouped (ch s.dev c).cap → (ch u.dev c).cap.armGrp = some (nextMod s.dev))) ∧
      (m.kind.val = 2 → ∃ u, exec (.trigPulse q m) s = .next u ∧ passes u ∧
        (acts → ∀ n : Fin 8, u.dev.gtPulse.get n =
          if n.val ∈ gtMapped s.dev m.group.toNat then s.dev.tb.mono + 40960 else s.dev.gtPulse.get n)) ∧
      (m.kind.val = 3 → ∃ u, exec (.trigHigh q m) s = .next u ∧ passes u ∧
        (acts → ∀ g, g ∈ u.dev.gtRemote ↔ (g = m.group.toNat ∨ g ∈ s.dev.gtRemote))) ∧
      (m.kind.val = 4 → ∃ u, exec (.trigLow q m) s = .next u ∧ passes u ∧
        (acts → ∀ g, g ∈ u.dev.gtRemote ↔ (g ≠ m.group.toNat ∧ g ∈ s.dev.gtRemote))))

/-- Ports, discovery and topology (R322 to R330). -/
def Obligations.PortsTrainAndJoin : Prop :=
  ∀ (s : State) (q : Side),
    (∀ (n : Neighbour), s.dev.pwr.reset = false → (slPort s.dev q).lock = false → flag s.dev bSL SL_CTL (sideNo q) = true →
      (2 ≤ n.vmaj.val → n.vmaj.val ≤ 4 → ∃ u, exec (.linkTrained q n) s = .next u ∧ (slPort u.dev q).lock = true ∧
        (slPort u.dev q).lost = false ∧ flag u.dev bSL (nbrReg q) 31 = true ∧
        (slAddr s.dev = none → isHead s.dev = false → q = .u → ∃ g ∈ portFrames u.dev .u, g.type = 0xB ∧ g.payload = 0 :: annWords s.dev)) ∧
      (n.vmaj.val < 2 ∨ 4 < n.vmaj.val → ∃ u, exec (.linkTrained q n) s = .next u ∧ (slPort u.dev q).lock = false ∧
        flag u.dev bSL SL_STS 6 = true)) ∧
    (∀ t, HostCan s t → let d := advance s.dev t
      (slAddr d = none → isHead d = false → d.sl.pu.lock = true → msTaps 100 ≤ d.tb.mono - d.sl.annAt →
        ∃ u, exec (.discAnnounceRepeat t) s = .next u ∧ u.dev.sl.annAt = d.tb.mono ∧
          ∃ g ∈ portFrames u.dev .u, g.type = 0xB ∧ g.payload = 0 :: annWords d) ∧
      ((slPort d q).lock = true → (slPort d q).lost = false →
        ∃ u, exec (.portLoss q t) s = .next u ∧ (slPort u.dev q).lock = false ∧ (slPort u.dev q).lost = true ∧
          flag u.dev bSL FLT_STS 2 = true ∧ (egress d = q → u.dev.sl.egressD = !d.sl.egressD ∧ flag u.dev bSL SL_STS 3 = true))) ∧
    (∀ (f : SlFrame), isHead s.dev = true → (slAccept s.dev .d f).1 = true → f.type.val = 0xB → bits (f.payload.getD 0 0) 31 28 = 0 →
      let s0 := f.payload.getD 1 0
      let s1 := f.payload.getD 2 0
      (∀ pos moved, ringWritten s.dev = true → headPosition s.dev (f.hops.val + 1) s0 s1 = some (pos, moved) →
        ∃ u, exec (.discAnnounce f) s = .next u ∧ (pos, s0, s1) ∈ u.dev.sl.taken ∧
          ∃ g ∈ portFrames u.dev .d, g.type = 0xB ∧ g.dmode = 3 ∧ g.dst.val = f.hops.val ∧
            g.payload = [wordN (0x10000000 + fld s.dev bSL SL_SPLIT 6 0 * 0x10000 + (fld s.dev bSL SL_RING 3 0 * 64 + pos))]) ∧
      (ringWritten s.dev = false → s.dev.sl.heldAnn.length < 64 →
        ∃ u, exec (.discAnnounce f) s = .next u ∧ u.dev.sl.heldAnn = s.dev.sl.heldAnn ++ [⟨f.hops.val, f.payload⟩])) ∧
    (∀ (f : SlFrame), Arrives s.dev .u f → f.type.val = 0xB → bits (f.payload.getD 0 0) 31 28 = 1 → slAddr s.dev = none →
      let w := f.payload.getD 0 0
      ∃ u, exec (.discAssign f) s = .next u ∧ rd u.dev bSL SL_ADDR = wordN (0x400 + bits w 9 0) ∧
        fld u.dev bSL SL_SPLIT 6 0 = min 64 (bits w 22 16)) ∧
    (∀ (p : Port) (v : Word), Serves s true bSL SL_RING →
      (ringWritten s.dev = false → isHead s.dev = true → ∃ u, exec (.slRingWrite p v) s = .next u ∧ ringWritten u.dev = true ∧
        fld u.dev bSL SL_RING 3 0 = bits v 3 0 ∧ rd u.dev bSL SL_ADDR = wordN (0x400 + bits v 3 0 * 64) ∧ u.dev.sl.heldAnn = []) ∧
      (ringWritten s.dev = true → ∃ u, exec (.slRingWrite p v) s = .next u ∧ flag u.dev bSL ACC_STS 2 = true ∧
        rd u.dev bSL SL_RING = rd s.dev bSL SL_RING)) ∧
    (∀ (f : SlFrame), (slAccept s.dev q f).1 = true → f.type.val = 0xC →
      (bits (f.payload.getD 0 0) 31 28 = 1 → egress s.dev = q → (slPort s.dev (otherSide q)).lost = false →
        ∃ u, exec (.topoLoss q f) s = .next u ∧ u.dev.sl.egressD = !s.dev.sl.egressD ∧ flag u.dev bSL SL_STS 3 = true) ∧
      (bits (f.payload.getD 0 0) 31 28 = 2 → slOut s.dev q f = none → (slPort s.dev (egress s.dev)).replay = [] →
        ∃ u, exec (.topoRestore q f) s = .next u ∧ u.dev.sl.egressD = egressHome s.dev ∧ u.dev.sl.back = false)) ∧
    (∀ (p : Port),
      (Serves s true bSL (SL_CTL + 0x8000) → flag s.dev bSL SL_CTL (sideNo q) = true → (slPort s.dev q).lost = false →
        ∃ u, exec (.portDown p q) s = .next u ∧ flag u.dev bSL SL_CTL (sideNo q) = false ∧ (slPort u.dev q).lock = false ∧
          (slPort u.dev q).lost = true ∧ flag u.dev bSL FLT_STS 2 = true) ∧
      (Serves s true bSL (SL_CTL + 0x4000) →
        ∃ u, exec (.portUp p q) s = .next u ∧ flag u.dev bSL SL_CTL (sideNo q) = true ∧ u.dev.sl = s.dev.sl ∧ u.mem = s.mem))

/-- Firmware images (R332, R385 to R389). -/
def Obligations.ImagesAreHandled : Prop :=
  ∀ (s : State),
    (∀ (q : Side) (f : SlFrame),
      let i := imgSlot f
      (AsksImage s.dev q f 0 → ∃ u, exec (.erase q f) s = .next u ∧ (∀ w, slotWord u.dev i w = 0) ∧ fld u.dev bSEC (secSlot i) 31 28 = 0 ∧
        Answers u f [0, 0]) ∧
      (∀ (w off : Word) (ws : List Word), AsksImage s.dev q f 1 → f.payload = w :: off :: ws → 1 ≤ ws.length → ws.length ≤ 1024 →
        off.toNat % 4 = 0 → off.toNat + 4 * ws.length ≤ slotSize i →
        ∃ u, exec (.chunk q f) s = .next u ∧ (∀ j v, ws[j]? = some v → slotWord u.dev i (off.toNat / 4 + j) = v) ∧
          fld u.dev bSEC (secSlot i) 31 28 = 1 ∧ Answers u f [0, 0]) ∧
      (AsksImage s.dev q f 2 → ∃ u, exec (.verify q f) s = .next u ∧ u.dev.sec.verify = s.dev.sec.verify ++ [(q, f)]) ∧
      (AsksImage s.dev q f 3 → switchResult s.dev i = 0 →
        (i.val < 2 → ∃ u, exec (.switch q f) s = .next u ∧ Answers u f [0, 0] ∧ u.dev.sl.restart = true ∧
          flag u.dev bSEC SEC_BOOT 4 = decide (i = 1) ∧ flag u.dev bDEV DEV_STS 16 = false ∧ u.mem = s.mem) ∧
        (2 ≤ i.val → ∃ u, exec (.switch q f) s = .next u ∧ Answers u f [0, 0] ∧ u.dev.pwr.fup = false ∧ u.dev.pwr.fcause = 4 ∧
          flag u.dev bSEC SEC_BOOT 5 = decide (i = 3) ∧ u.mem = []))) ∧
    (∀ (i : Fin 4) (q : Side) (f : SlFrame), s.dev.sec.verify.find? (fun x => imgSlot x.2 == i) = some (q, f) →
      (imageFail s.dev i = none → ∃ u, exec (.verifyDone i) s = .next u ∧ fld u.dev bSEC (secSlot i) 31 28 = 2 ∧
        flag u.dev bSEC SEC_STS 0 = true ∧ u.dev.sec.verify = s.dev.sec.verify.erase (q, f) ∧ Answers u f [0, 0]) ∧
      (∀ n, imageFail s.dev i = some n → ∃ u, exec (.verifyDone i) s = .next u ∧ fld u.dev bSEC (secSlot i) 31 28 = 3 ∧
        fld u.dev bSEC (secSlot i) 27 24 = n ∧ flag u.dev bSEC SEC_STS 1 = true ∧ Answers u f [0, wordN (4 + n * 256)])) ∧
    (s.dev.sl.restart = true →
      let i := nextHost s.dev
      (imageFail s.dev i = none → ∃ u, exec (.hostRestartDone true) s = .next u ∧ u.dev.sl.restart = false ∧
        flag u.dev bDEV DEV_STS 16 = true ∧ fld u.dev bDEV DEV_RCAUSE 7 0 = 3 ∧ fld u.dev bSEC (secSlot i) 31 28 = 4 ∧ hostSlot u.dev = i ∧
        u.dev.sec.store = []) ∧
      (∀ n, imageFail s.dev i = some n → hostSlot s.dev ≠ i → ∃ u, exec (.hostRestartDone false) s = .next u ∧ u.dev.sl.restart = false ∧
        flag u.dev bDEV DEV_STS 16 = true ∧ fld u.dev bSEC (secSlot i) 31 28 = 3 ∧ flag u.dev bSEC SEC_STS 1 = true ∧
        hostSlot u.dev = hostSlot s.dev)) ∧
    (∀ (p : Port) (v : Word), Serves s true bSEC SEC_ARBCMT → lockOpen s.dev bSEC = true → bit v 0 = true →
      let n := min (imageArb s.dev (hostSlot s.dev)) (imageArb s.dev (fieldSlot s.dev))
      (fld s.dev bSEC SEC_ARB 5 0 < n → ∃ u, exec (.arbCommit p v) s = .next u ∧ fld u.dev bSEC SEC_ARB 5 0 = min 63 n ∧
        flag u.dev bSEC SEC_STS 3 = true ∧ lockOpen u.dev bSEC = false) ∧
      (n ≤ fld s.dev bSEC SEC_ARB 5 0 → ∃ u, exec (.arbCommit p v) s = .next u ∧ u.dev.regs = s.dev.regs ∧ lockOpen u.dev bSEC = false))

/-- Attestation and Colophons (R390 to R396). -/
def Obligations.ReportsAndColophonsSigned : Prop :=
  ∀ (s : State),
    (∀ (q : Side) (f : SlFrame), Asks s.dev q f 0xE → 9 ≤ f.payload.length → f.payload.getD 0 0 = 0 →
      ∃ u, exec (.attest q f) s = .next u ∧ u.dev.sec.attests = s.dev.sec.attests ++ [(q, f)] ∧ u.mem = s.mem) ∧
    (∀ (q : Side) (f : SlFrame) (r : List (Side × SlFrame)), s.dev.sec.attests = (q, f) :: r → supRuns s.dev = true →
      ∃ u ws, exec .attestReport s = .next u ∧ u.dev.sec.attests = r ∧ Answers u f (0 :: ws) ∧ u.dev.regs = s.dev.regs) ∧
    (∀ (b : Body) (r : List Body), s.dev.sec.bodies = b :: r → supRuns s.dev = true →
      let n := rd s.dev bSEC SEC_CNEXT
      (∃ u ws, exec .colophonSigned s = .next u ∧ u.dev.sec.bodies = r ∧ rd u.dev bSEC SEC_CNEXT = n + 1 ∧
          u.dev.sec.store = s.dev.sec.store ++ [⟨n, ws, s.dev.tb.mono⟩] ∧
          ∃ g ∈ portFrames u.dev (egress s.dev), g.type = 0xF ∧ g.payload = ws) ∧
      (∀ c bytes, 208 ≤ s.dev.sec.store.length →
        let u := bodyArrive s.dev c bytes
        u.sec.store = s.dev.sec.store.drop 1 ∧ u.sec.bodies = s.dev.sec.bodies ++ [⟨c, bytes⟩] ∧
          flag u bSEC SEC_STS 4 = true ∧ (rd u bSEC SEC_CDROP).toNat = satInc 0xFFFFFFFF (rd s.dev bSEC SEC_CDROP).toNat)) ∧
    (∀ (t : TS) (n : Word) (x : ColoHeld), HostCan s t →
      let d := advance s.dev t
      d.sec.store.find? (fun x => decide (x.seq = n) && decide (x.sentAt + msTaps 1000 ≤ d.tb.mono)) = some x → supRuns d = true →
      ∃ u, exec (.colophonResend n t) s = .next u ∧
        u.dev.sec.store = d.sec.store.map (fun y => if y.seq = n then { y with sentAt := d.tb.mono } else y) ∧
        ∃ g ∈ portFrames u.dev (egress d), g.type = 0xF ∧ g.payload = x.words) ∧
    (∀ (p : Port) (n : Word), Serves s true bSEC SEC_CACK →
      ∃ u, exec (.secCack p n) s = .next u ∧ u.dev.sec.store = s.dev.sec.store.filter (fun x => decide (x.seq ≠ n)) ∧
        u.dev.regs = s.dev.regs ∧ u.mem = s.mem)

/-- Fault causes (R334 to R343). -/
def Obligations.CausesReportedAndContained : Prop :=
  ∀ (s : State),
    (∀ (z : CauseIn) (c : Chan), z.blk = chBlk c → locOk z.loc = true → causeBlk z.blk z.code.toNat = true → faultClass z.code.toNat = 2 →
      (z.code.toNat ≠ 0x0101 → ∃ u, exec (.faultCause z) s = .next u ∧ FaultSafe s.dev u.dev c ∧ u.mem = s.mem) ∧
      (z.code.toNat = 0x0101 → 1 ≤ z.p0.toNat → z.p0.toNat ≤ 12 → ∃ u, exec (.faultCause z) s = .next u ∧ FaultSafe s.dev u.dev c ∧
        rd u.dev (chBlk c) CH_AFAULT = wordN (z.p0.toNat * 0x10000 + z.p1.toNat % 65536) ∧ u.mem = s.mem)) ∧
    (∀ (z : CauseIn) (b : Bank), z.blk = .bank b .loop → z.code.toNat = 0x0201 → locOk z.loc = true →
      ∃ u, exec (.faultCause z) s = .next u ∧ flag u.dev (.bank b .loop) LOOP_CTL 0 = false ∧ flag u.dev (.bank b .loop) FLT_STS 2 = true ∧
        ∀ c, c.bank = b → IsSafe u.dev c) ∧
    (∀ (z : CauseIn) (b : Bank) (x : BankBlk), z.blk = .bank b x → locOk z.loc = true → causeBlk z.blk z.code.toNat = true → faultClass z.code.toNat = 1 →
      fld s.dev z.blk FLT_STS 3 0 = 0 → fld s.dev z.blk FLT_CAUSE 31 30 = 0 →
      ∃ u, exec (.faultCause z) s = .next u ∧ fld u.dev z.blk FLT_STS 3 0 = 2 ∧
        rd u.dev z.blk FLT_CAUSE = wordN (0x40000000 + z.code.toNat) ∧ rd u.dev z.blk FLT_LOC = z.loc ∧ rd u.dev z.blk FLT_PAR0 = z.p0 ∧
        rd u.dev z.blk FLT_PAR1 = z.p1 ∧ u.dev.chans = s.dev.chans ∧ u.mem = s.mem) ∧
    (∀ (x : FatalCode) (p0 p1 : Word), s.dev.pwr.fatal = none →
      ∃ u, exec (.fatalEntry x p0 p1) s = .next u ∧ u.dev.pwr.fatal = some (fatalNo x) ∧ flag u.dev bFOL FOL_STS 17 = true ∧
        flag u.dev bDEV FLT_STS 3 = true ∧ u.dev.chans = s.dev.chans ∧ u.mem = s.mem)

/-- The Folio's commands (R350 to R353). -/
def Obligations.FolioFrozenReadAndCleared : Prop :=
  ∀ (s : State),
    (∀ (p : Port) (v : Word), Serves s true bFOL FOL_CTL → s.dev.pwr.fatal = none →
      (bit v 0 = true → s.dev.folio.frzAt = none →
        ∃ u, exec (.freeze p v) s = .next u ∧ u.dev.folio.frzAt = some s.dev.tb.mono ∧ rd u.dev bFOL FOL_GAPCNT = 0 ∧
          flag u.dev bFOL FOL_CTL 0 = true ∧ flag u.dev bFOL FOL_STS 16 = true ∧ lockOpen u.dev bFOL = false) ∧
      (bit v 0 = false → s.dev.folio.frzAt.isSome = true →
        ∃ u, exec (.thaw p v) s = .next u ∧ u.dev.folio.frzAt = none ∧ flag u.dev bFOL FOL_CTL 0 = false ∧ flag u.dev bFOL FOL_STS 16 = false ∧
          (rd s.dev bFOL FOL_GAPCNT = 0 → u.dev.folio.ring = s.dev.folio.ring) ∧
          (rd s.dev bFOL FOL_GAPCNT ≠ 0 → flag u.dev bFOL FOL_STS 2 = true ∧
            ∃ r, u.dev.folio.ring.getLast? = some r ∧ r.code = 0x8001 ∧ r.p0 = rd s.dev bFOL FOL_GAPCNT)) ∧
      (bit v 8 = true → lockOpen s.dev bFOL = true → s.dev.folio.frzAt = none →
        ∃ u r, exec (.clrring p v) s = .next u ∧ u.dev.folio.ring = [r] ∧ r.code = 0x8002 ∧
          r.p0 = wordN s.dev.folio.ring.length ∧ flag u.dev bFOL FOL_STS 0 = true ∧ lockOpen u.dev bFOL = false) ∧
      (bit v 9 = true → lockOpen s.dev bFOL = true → s.dev.folio.frzAt = none →
        ∃ u, exec (.clrhist p v) s = .next u ∧ lockOpen u.dev bFOL = false ∧ ∀ n w, w < 256 →
          areaGet u.dev n w = (if (1 ≤ w ∧ w ≤ 7) ∨ (16 ≤ w ∧ w ≤ 79) then 0 else areaGet s.dev n w))) ∧
    (∀ (t : TS) (x : Nat), HostCan s t →
      let d := advance s.dev t
      d.folio.frzAt = some x → x + 1000000 * tapsPerUs ≤ d.tb.mono →
      ∃ u, exec (.freezeTimeout t) s = .next u ∧ u.dev.folio.frzAt = none ∧ flag u.dev bFOL FOL_STS 3 = true ∧
        flag u.dev bFOL FOL_STS 16 = false) ∧
    (∀ (p : Port), Serves s false bFOL (FOL_WIN + 0x1C) → (portSt s.dev p).rd = none →
      ∃ u, exec (.folioWindowRead p) s = .next u ∧ (portSt u.dev p).rdata = folWin s.dev 7 ∧ u.mem = s.mem ∧
        rd u.dev bFOL FOL_CUR = (if flag s.dev bFOL FOL_CTL 1 then rd s.dev bFOL FOL_CUR + 1 else rd s.dev bFOL FOL_CUR)) ∧
    (∀ (p : Port) (n : Fin 64) (v : Word), Serves s true bFOL (FOL_SRC + 4 * n.val) → bit v 31 = true →
      flag s.dev bFOL (FOL_SRC + 4 * n.val) 31 = false →
      let w0 := wordN (bits v 15 0 + bits v 29 28 * 0x10000 + bits v 27 24 * 0x40000)
      let base := rd s.dev bFOL (FOL_SBASE + 4 * n.val)
      ∃ u, exec (.folioSourceEnable p n v) s = .next u ∧ flag u.dev bFOL (FOL_SRC + 4 * n.val) 31 = true ∧
        areaGet u.dev n.val 0 = w0 ∧ areaGet u.dev n.val 8 = base ∧
        (areaGet s.dev n.val 0 ≠ w0 ∨ areaGet s.dev n.val 8 ≠ base → ∀ w, w < 256 → w ≠ 0 → w ≠ 8 → areaGet u.dev n.val w = 0))

/-- Temperature and scrubbing (R367 to R374). -/
def Obligations.TemperatureAndScrubbing : Prop :=
  ∀ (s : State),
    (∀ (ps : List Nat), hostUp s.dev = true →
      ∃ u, exec (.thermalModelUpdate ps) s = .next u ∧ u.mem = s.mem ∧ u.dev.thm.banded = true ∧
        u.dev.thm.poles = thmPoles (thmData s.dev) ps s.dev.thm.poles ∧
        (∀ n, n < 10 → rd u.dev bTHM (THM_PWR + 4 * n) = wordN (ps.getD n 0)) ∧
        ((∃ n, n < 10 ∧ 1500000000 ≤ u.dev.thm.tj.getD n 0 ∧ (s.dev.thm.banded = false ∨ s.dev.thm.tj.getD n 0 < 1500000000)) →
          flag u.dev bTHM THM_STS 18 = true ∧ (∀ c, IsSafe u.dev c) ∧ ∀ b, flag u.dev (.bank b .loop) LOOP_CTL 0 = false)) ∧
    (∀ (xs : List Int), hostUp s.dev = true →
      ∃ u, exec (.sensorCheck xs) s = .next u ∧ u.mem = s.mem ∧ (u.dev.thm.tref - s.dev.thm.tref).natAbs ≤ 5000000 ∧
        (∀ n, n < 12 → rd u.dev bTHM (THM_SENS + 4 * n) = wordN (ux 16 (xs.getD n 0))) ∧
        ∀ n, n < 12 → sensOk s.dev n = true → (xs.getD n 0 < -5500 ∨ 17500 < xs.getD n 0) →
          sensOk u.dev n = false ∧ flag u.dev bTHM THM_STS 1 = true ∧ flag u.dev bTHM FLT_STS 2 = true) ∧
    (∀ (p : Port) (v : Word), Serves s true bTHM THM_SENSCTL → lockOpen s.dev bTHM = true →
      ∃ u, exec (.sensorReadmit p v) s = .next u ∧ lockOpen u.dev bTHM = false ∧ u.mem = s.mem ∧
        ∀ n, n < 12 → (bit v n = true → sensOk u.dev n = true) ∧ (bit v n = false → sensOk u.dev n = sensOk s.dev n)) ∧
    (∀ t, HostCan s t → let d := advance s.dev t
      flag d bTHM THM_STS 16 = false → d.pwr.fup = true → d.pwr.fieldUpAt + 60000000 * tapsPerUs ≤ d.tb.mono →
      ∃ u, exec (.modelHistoryStart t) s = .next u ∧ flag u.dev bTHM THM_STS 16 = true) ∧
    (s.dev.pwr.fup = true → ∃ u, exec (.scrubPass .fieldSram []) s = .next u ∧
      fld u.dev bTHM THM_SCRUB 7 0 = (scrubTimes (nodeBand s.dev 8)).1 ∧ u.mem = s.mem) ∧
    (supRuns s.dev = true → ∃ u, exec (.scrubPass .hdSram []) s = .next u ∧
      fld u.dev bTHM THM_SCRUB 15 8 = (scrubTimes (nodeBand s.dev 9)).1 ∧ u.mem = s.mem) ∧
    (supRuns s.dev = true → ∃ u, exec (.scrubPass .mram []) s = .next u ∧
      fld u.dev bTHM THM_SCRUB 23 16 = (scrubTimes (nodeBand s.dev 9)).2 ∧ u.mem = s.mem) ∧
    (∀ (z : CauseIn) (b : Bank), s.dev.pwr.fup = true → z.blk = .bank b .bk → z.code.toNat = 0x0401 → locOk z.loc = true →
      ∃ u, exec (.scrubPass .fieldSram [z]) s = .next u ∧ flag u.dev (.bank b .bk) FLT_STS 1 = true ∧ u.dev.chans = s.dev.chans)

/-- The Catalogue and Patina (R361 to R380). -/
def Obligations.CatalogueAndPatinaKept : Prop :=
  ∀ (s : State),
    (∀ (p : Port) (v : Word) (c : Chan), Serves s true bCAT CAT_SHCMD → lockOpen s.dev bCAT = true → shuntChan v = some c → s.dev.cat.shWr = none →
      (bits v 1 0 = 1 →
        (flag s.dev (chBlk (leadOf s.dev c)) CH_CTRL 0 = false → rd s.dev bCAT CAT_SHR ≠ 0 → ∃ u, exec (.shuntCommit p v) s = .next u ∧
          u.dev.cat.shWr = some ⟨c, some [rd s.dev bCAT CAT_SHR, rd s.dev bCAT CAT_SHTC, rd s.dev bCAT CAT_SHAUX, wordN (b2n (bit v 8))]⟩) ∧
        (flag s.dev (chBlk (leadOf s.dev c)) CH_CTRL 0 = true ∨ rd s.dev bCAT CAT_SHR = 0 → ∃ u, exec (.shuntCommit p v) s = .next u ∧
          u.dev.cat = s.dev.cat ∧ flag u.dev bCAT CAT_STS 4 = true)) ∧
      (bits v 1 0 = 2 → ∃ u, exec (.shuntErase p v) s = .next u ∧ u.dev.cat.shWr = some ⟨c, none⟩)) ∧
    (∀ (t : TS) (w : ShuntWrite), HostCan s t → let d := advance s.dev t
      d.cat.shWr = some w → ∃ u, exec (.shuntWriteDone t) s = .next u ∧ u.dev.cat.shWr = none ∧ flag u.dev bCAT CAT_STS 5 = true ∧
        (ch u.dev w.chan).meas.shuntNew = some (shuntNow u.dev w.chan)) ∧
    (∀ (p : Port) (v : Word), Serves s true bCAT CAT_CALCMD → lockOpen s.dev bCAT = true →
      (bits v 1 0 = 1 →
        (∀ r, s.dev.cat.cal = some r → ∃ u, exec (.calibrate p v) s = .next u ∧ u.dev.cat.cal = some r ∧ fld u.dev bCAT CAT_CALSTS 3 0 = 3) ∧
        (s.dev.cat.cal = none →
          ((calBanks s.dev (bits v 8 8)).length < 2 → ∃ u, exec (.calibrate p v) s = .next u ∧ u.dev.cat.cal = none ∧
            fld u.dev bCAT CAT_CALSTS 3 0 = 1) ∧
          (2 ≤ (calBanks s.dev (bits v 8 8)).length → refsOk s.dev (bits v 8 8) = false → ∃ u, exec (.calibrate p v) s = .next u ∧
            u.dev.cat.cal = none ∧ fld u.dev bCAT CAT_CALSTS 3 0 = 2) ∧
          (2 ≤ (calBanks s.dev (bits v 8 8)).length → refsOk s.dev (bits v 8 8) = true → ∃ u r, exec (.calibrate p v) s = .next u ∧
            u.dev.cat.cal = some r ∧ r.die = bits v 8 8 ∧ r.phase = 1 ∧ r.at_ = s.dev.tb.mono ∧ flag u.dev bCAT CAT_CALSTS 31 = true ∧
            fld u.dev bCAT CAT_CALSTS 30 28 = 1))) ∧
      (bits v 1 0 = 2 → ∀ r, s.dev.cat.cal = some r → ∃ u, exec (.abandon p v) s = .next u ∧ u.dev.cat.cal = none ∧
        flag u.dev bCAT CAT_CALSTS 31 = false ∧ fld u.dev bCAT CAT_CALSTS 3 0 = 4)) ∧
    (∀ (t : TS) (r : CalRun), HostCan s t → let d := advance s.dev t
      d.cat.cal = some r →
      (∀ (first refs : List CalReading), r.phase = 1 →
        let act := (calStill d r).filter fun b => !calSuspended d b
        let fs := act.filterMap fun b => first.find? fun x => x.bank = b
        let xs := act.filterMap fun b => refs.find? fun x => x.bank = b
        (fs.any (readingOff d r.die) = true → ∃ u, exec (.calPhase1End t first refs) s = .next u ∧ u.dev.cat.cal = none ∧
          fld u.dev bCAT CAT_CALSTS 3 0 = 2 ∧ flag u.dev bCAT CAT_CALSTS 31 = false) ∧
        (fs.any (readingOff d r.die) = false →
          (calStill d r).any (calSuspended d) = false ∨ r.at_ + 40000000 * tapsPerUs ≤ d.tb.mono →
          (act.length < 2 → ∃ u, exec (.calPhase1End t first refs) s = .next u ∧ u.dev.cat.cal = none ∧
            fld u.dev bCAT CAT_CALSTS 3 0 = 1 ∧ flag u.dev bCAT CAT_CALSTS 31 = false) ∧
          (2 ≤ act.length → xs.length = act.length →
            let bad := apart 2 (xs.map fun x => x.v) || apart 5 (xs.map fun x => x.i)
            (bad = true → ∃ u, exec (.calPhase1End t first refs) s = .next u ∧ u.dev.cat.cal = none ∧
              fld u.dev bCAT CAT_CALSTS 3 0 = 5 ∧ flag u.dev bCAT CAT_CALSTS 31 = false) ∧
            (bad = false → ∃ u, exec (.calPhase1End t first refs) s = .next u ∧
              u.dev.cat.cal = some { r with phase := 2, at_ := d.tb.mono, banks := act.map fun b => b.val } ∧
              rd u.dev bCAT CAT_COUNT = rd d bCAT CAT_COUNT + 1 ∧ rd u.dev bCAT CAT_LAST_LO = d.tb.now.truncate 32 ∧
              flag u.dev bCAT CAT_STS 3 = true ∧ fld u.dev bCAT CAT_CALSTS 30 28 = 2)))) ∧
      (r.phase = 2 → (∀ b ∈ calStill d r, ∀ c : Chan, c.bank = b → c.val ∈ r.seen) →
        ∃ u, exec (.calPhase2End t) s = .next u ∧ u.dev.cat.cal = none ∧
          fld u.dev bCAT CAT_CALSTS 3 0 = (if fld d bCAT CAT_CALSTS 14 8 = 0 then 0 else 6) ∧ flag u.dev bCAT CAT_CALSTS 31 = false)) ∧
    (hostUp s.dev = true →
      (∃ u, exec .patinaUpdate s = .next u ∧ u.mem = s.mem ∧ ∀ c, (ch u.dev c).tim.nAB = 0 ∧ (ch u.dev c).tim.nBA = 0 ∧
        (ch u.dev c).tim.guard = dtGuard u.dev c ∧ (ch u.dev c).cmp.tgt = cmpTarget u.dev c) ∧
      (∃ u, exec .patinaStoreWrite s = .next u ∧ u.dev.regs = s.dev.regs ∧ u.dev.chans = s.dev.chans ∧ u.mem = s.mem ∧
        ∀ n, n < 200 → entryData u.dev 0x07 0 n 2 = some [smGet wordZero s.dev.cat.hand n, smGet wordZero s.dev.cat.turns n]))

/-- Power-up and resets (R399 to R408). -/
def Obligations.SidesStartAndReset : Prop :=
  ∀ (s : State),
    (∀ (role : Fin 4) (bootsel : Bool), s.dev.pwr.reset = true →
      ∃ u, exec (.hostStart role bootsel) s = .next u ∧ u.mem = [] ∧ u.dev.pwr.reset = false ∧ u.dev.pwr.fup = false ∧
        u.dev.pwr.coldStart = false ∧ u.dev.tb.now = 0 ∧ u.dev.xc.up = true ∧ (s.dev.pwr.coldStart = true → AtReset u.dev bSL SL_ADDR) ∧ fld u.dev bSL SL_ROLE 1 0 = (if role = 3 then 0 else role.val) ∧
        (s.dev.pwr.fatal = none → u.dev.pwr.fatal = none) ∧
        ((flag u.dev bSEC SEC_STS 17 = true ∧ fld u.dev bDEV DEV_RCAUSE 7 0 = 4) ∨
          (bootsel = false ∧ fld u.dev bDEV DEV_RCAUSE 7 0 = (if s.dev.pwr.coldStart then 1 else 2) ∧
            (u.dev.pwr.fatal = none → flag u.dev bDEV DEV_STS 16 = true)))) ∧
    (s.dev.pwr.reset = false →
      ∃ u, exec (.resetAssert true) s = .next u ∧ u.dev.pwr.reset = true ∧ u.dev.pwr.fcause = 2 ∧ u.dev.pwr.coldStart = false ∧
        u.dev.ports = Vector.replicate 4 {} ∧
        (s.dev.xc.up = true → u.mem = [] ∧ u.dev.pwr.fup = false ∧ ∀ k off, blkField k = true → AtReset u.dev k off) ∧
        (s.dev.xc.up = false → u.mem = s.mem ∧ ∀ h off, hostKept false (regKey (.host h) off) = false →
          (s.dev.pwr.fup && fieldUses (regKey (.host h) off)) = false → AtReset u.dev (.host h) off)) ∧
    exec (.resetAssert false) s = .next s ∧
    (∃ u, exec .hostRailLoss s = .next u ∧ u.mem = s.mem ∧ u.dev.xc.up = false ∧ u.dev.pwr.coldStart = true ∧
      u.dev.pwr.railAt = some s.dev.tb.mono ∧ u.dev.pwr.reset = true ∧ u.dev.written = [] ∧ (s.dev.pwr.fup = false → AtReset u.dev bSL SL_ADDR ∧ AtReset u.dev bSL SL_RING)) ∧
    (s.dev.pwr.frail = false → ∃ u, exec .fieldPorRelease s = .next u ∧ u.mem = [] ∧ u.dev.pwr.frail = true ∧ u.dev.pwr.fup = false ∧
      ∀ k off, blkField k = true → AtReset u.dev k off) ∧
    (s.dev.pwr.frail = true → ∃ u, exec .fieldRailLoss s = .next u ∧ u.mem = [] ∧ u.dev.pwr.frail = false ∧ u.dev.pwr.fup = false ∧
      ∀ k off, blkField k = true → AtReset u.dev k off) ∧
    (∀ t i, HostCan s t → let d := advance s.dev t
      supRuns d = true → d.pwr.frail = true → d.pwr.fup = false → d.xc.bootGood = true → d.xc.bootSlot = some i → d.xc.up = true →
      ∃ u, exec (.fieldUp t) s = .next u ∧ u.dev.pwr.fup = true ∧ fieldNow u.dev = tsAdd u.dev.tb.now 0 ∧ u.dev.xc.autoRun = true ∧
        u.dev.xc.autoFrom = d.tb.mono ∧ flag u.dev bDEV DEV_STS 17 = true ∧ fld u.dev bDEV DEV_RCAUSE 15 8 = d.pwr.fcause % 256 ∧
        fld u.dev bSEC (secSlot i) 31 28 = 4 ∧ u.dev.tb.fwrap = wrapW d ∧ u.dev.tb.fl = d.tb.hl ∧ u.dev.sec.bodies = [] ∧ ∀ c, IsSafe u.dev c) ∧
    (∀ (p : Port) (v : Word), Serves s true bDEV DEV_CTL → lockOpen s.dev bDEV = true → bit v 0 = true →
      (anyBken s.dev = false → ∃ u, exec (.freboot p v) s = .next u ∧ u.mem = [] ∧ u.dev.pwr.fup = false ∧ u.dev.pwr.fcause = 3 ∧
        u.dev.pwr.frail = s.dev.pwr.frail ∧ ∀ k off, blkField k = true → AtReset u.dev k off) ∧
      (anyBken s.dev = true → ∃ u, exec (.freboot p v) s = .next u ∧ u.mem = s.mem ∧ u.dev.pwr = s.dev.pwr ∧ flag u.dev bDEV ACC_STS 0 = true))

/-- The step is the front command's effect on the state with the queue's rest (the model's queue: log entry 1). -/
def Obligations.StepRunsFront : Prop :=
  ∀ (s : State) (c : Instr) (r : List Instr), s.pending = c :: r → step s = exec c { s with pending := r }

/-- The idle step passes one period of the timing clock (DESIGN CHOICE, log entry 2). -/
def Obligations.IdlePassesTime : Prop :=
  ∀ (s : State), s.pending = [] →
    ∃ u, step s = .next u ∧ u.dev.tb.now = tsAdd s.dev.tb.now 160 ∧ u.mem = s.mem ∧ u.pending = [] ∧
      ((∀ c, cmpDue (advance s.dev (tsAdd s.dev.tb.now 160)) c = false) → u.dev.ports = s.dev.ports ∧ u.dev.xc = s.dev.xc ∧
        u.dev.pwr = s.dev.pwr ∧ u.dev.folio = s.dev.folio ∧ u.dev.led = s.dev.led)

/-- The queue and bank memory across a command (R198, R229, R243, R408, R440). -/
def Obligations.CommandsKeepQueueAndMemory : Prop :=
  ∀ (c : Instr) (s : State), ∃ u, exec c s = .next u ∧ u.pending = s.pending ∧ (touchesMem c = false → u.mem = s.mem)

/-- The state after reset (R6, R8, R403, R408). -/
def Obligations.ResetState : Prop :=
  State.reset.pending = [] ∧ State.reset.mem.wf = true ∧ (∀ a, State.reset.mem.read a = 0) ∧
  (∀ k off, AtReset State.reset.dev k off) ∧ State.reset.dev.pwr.fup = false ∧ State.reset.dev.pwr.reset = true ∧
  (∀ k, lockOpen State.reset.dev k = false) ∧
  rd State.reset.dev bDEV DEV_ID = 0x4B560192 ∧ rd State.reset.dev bDEV DEV_VER = 0xB0020032 ∧ rd State.reset.dev bXC XC_AUTO = 0x2710 ∧
  rd State.reset.dev bTB TB_LINE_NOM = 0xC350 ∧ rd State.reset.dev bSL SL_CTL = 0x3 ∧ rd State.reset.dev bMSP MSP_CFG = 0x120 ∧
  ∀ c, rd State.reset.dev (chBlk c) CH_STS = 0x00040000

/-- The canonical form of bank memory is kept by every step, so memories that read alike are equal data (R440). -/
def Obligations.StepKeepsMemory : Prop :=
  (∀ s : State, s.mem.wf = true → ∃ u, step s = .next u ∧ u.mem.wf = true) ∧
  ∀ s t u v : State, s.mem.wf = true → t.mem.wf = true → Reaches s u → Reaches t v → (∀ a, u.mem.read a = v.mem.read a) → u.mem = v.mem
end

