-- ==== Sys2Proof/Laws/Maps.lean ====
section
/-! SUPPORT. The laws of sparse maps: what a map holds after a value has been set, and that setting keeps the canonical form. -/

namespace Sys2Proof.Machine

open Sys2Proof

variable {α : Type}

theorem smGet_smDel_self (dflt : Nat → α) (m : SMap α) (k : Nat) : smGet dflt (smDel m k) k = dflt k := by
  induction m with
  | nil => rfl
  | cons x r ih =>
    obtain ⟨a, w⟩ := x
    by_cases h : a = k
    · simp only [smDel, h, if_true]; exact ih
    · simp only [smDel, h, if_false, smGet]; exact ih

theorem smGet_smDel_ne (dflt : Nat → α) (m : SMap α) {k j : Nat} (h : j ≠ k) : smGet dflt (smDel m k) j = smGet dflt m j := by
  induction m with
  | nil => rfl
  | cons x r ih =>
    obtain ⟨a, w⟩ := x
    by_cases ha : a = k
    · subst ha; simp only [smDel, if_true, smGet, ih, Ne.symm h, if_false]
    · simp only [smDel, ha, if_false, smGet, ih]

theorem smGet_smIns_ne (dflt : Nat → α) (m : SMap α) (v : α) {k j : Nat} (h : j ≠ k) :
    smGet dflt (smIns m k v) j = smGet dflt m j := by
  induction m with
  | nil => simp only [smIns, smGet, Ne.symm h, if_false]
  | cons x r ih =>
    obtain ⟨a, w⟩ := x
    simp only [smIns]
    split
    · simp only [smGet, Ne.symm h, if_false]
    · simp only [smGet, ih]

theorem smGet_smIns_smDel (dflt : Nat → α) (m : SMap α) (k : Nat) (v : α) : smGet dflt (smIns (smDel m k) k v) k = v := by
  induction m with
  | nil => simp only [smDel, smIns, smGet, if_true]
  | cons x r ih =>
    obtain ⟨a, w⟩ := x
    by_cases ha : a = k
    · simp only [smDel, ha, if_true]; exact ih
    · simp only [smDel, ha, if_false, smIns]
      split
      · simp only [smGet, if_true]
      · simp only [smGet, ha, if_false]; exact ih

variable [DecidableEq α]

/-- A key holds the value that was set there. -/
@[simp] theorem smGet_smSet_self (dflt : Nat → α) (m : SMap α) (k : Nat) (v : α) : smGet dflt (smSet dflt m k v) k = v := by
  unfold smSet
  split
  · rename_i h; rw [smGet_smDel_self, h]
  · exact smGet_smIns_smDel dflt m k v

/-- Setting one key leaves every other key alone. -/
theorem smGet_smSet_ne (dflt : Nat → α) (m : SMap α) (v : α) {k j : Nat} (h : j ≠ k) :
    smGet dflt (smSet dflt m k v) j = smGet dflt m j := by
  unfold smSet
  split
  · exact smGet_smDel_ne dflt m h
  · rw [smGet_smIns_ne dflt _ v h, smGet_smDel_ne dflt m h]

/-- A set and a read, in one equation. -/
theorem smGet_smSet (dflt : Nat → α) (m : SMap α) (k j : Nat) (v : α) :
    smGet dflt (smSet dflt m k v) j = if j = k then v else smGet dflt m j := by
  split
  · rename_i h; rw [h, smGet_smSet_self]
  · rename_i h; exact smGet_smSet_ne dflt m v h

/-- A lower bound that is met makes the bound above it met. -/
def loBelow (lo : Option Nat) (k : Nat) : Bool := match lo with | none => true | some l => decide (l < k)

theorem smWfFrom_cons (dflt : Nat → α) (lo : Option Nat) (a : Nat) (v : α) (r : SMap α) :
    smWfFrom dflt lo ((a, v) :: r) = (loBelow lo a && decide (v ≠ dflt a) && smWfFrom dflt (some a) r) := rfl

theorem smWfFrom_weaken (dflt : Nat → α) {lo : Option Nat} {k : Nat} (m : SMap α) (hl : loBelow lo k = true)
    (h : smWfFrom dflt (some k) m = true) : smWfFrom dflt lo m = true := by
  cases m with
  | nil => rfl
  | cons x r =>
    obtain ⟨a, w⟩ := x
    rw [smWfFrom_cons] at h ⊢
    simp only [Bool.and_eq_true, loBelow, decide_eq_true_eq] at h ⊢
    refine ⟨⟨?_, h.1.2⟩, h.2⟩
    cases lo with
    | none => rfl
    | some l => simp only [loBelow, decide_eq_true_eq] at hl ⊢; omega

theorem smWfFrom_smDel (dflt : Nat → α) (k : Nat) (m : SMap α) :
    ∀ lo, smWfFrom dflt lo m = true → smWfFrom dflt lo (smDel m k) = true := by
  induction m with
  | nil => intro lo h; exact h
  | cons x r ih =>
    obtain ⟨a, w⟩ := x
    intro lo h
    rw [smWfFrom_cons] at h
    simp only [Bool.and_eq_true] at h
    simp only [smDel]
    split
    · exact smWfFrom_weaken dflt _ h.1.1 (ih _ h.2)
    · rw [smWfFrom_cons]
      simp only [Bool.and_eq_true]
      exact ⟨h.1, ih _ h.2⟩

omit [DecidableEq α] in
theorem smDel_lacks (m : SMap α) (k : Nat) : ∀ x ∈ smDel m k, x.1 ≠ k := by
  induction m with
  | nil => intro x hx; cases hx
  | cons y r ih =>
    obtain ⟨a, w⟩ := y
    intro x hx
    simp only [smDel] at hx
    split at hx
    · exact ih x hx
    · rename_i ha
      cases hx with
      | head => exact ha
      | tail _ h => exact ih x h

theorem smWfFrom_smIns (dflt : Nat → α) (k : Nat) (v : α) (hv : v ≠ dflt k) (m : SMap α) :
    ∀ lo, loBelow lo k = true → (∀ x ∈ m, x.1 ≠ k) → smWfFrom dflt lo m = true → smWfFrom dflt lo (smIns m k v) = true := by
  induction m with
  | nil =>
    intro lo hl _ _
    simp only [smIns, smWfFrom_cons, hl, Bool.true_and, Bool.and_eq_true, decide_eq_true_eq]
    exact ⟨hv, rfl⟩
  | cons x r ih =>
    obtain ⟨a, w⟩ := x
    intro lo hl hne h
    have ha : a ≠ k := hne (a, w) List.mem_cons_self
    rw [smWfFrom_cons] at h
    simp only [Bool.and_eq_true, decide_eq_true_eq] at h
    simp only [smIns]
    split
    · rename_i hlt
      simp only [smWfFrom_cons, Bool.and_eq_true, decide_eq_true_eq, loBelow]
      exact ⟨⟨hl, hv⟩, ⟨hlt, h.1.2⟩, h.2⟩
    · rename_i hge
      simp only [smWfFrom_cons, Bool.and_eq_true, decide_eq_true_eq]
      refine ⟨h.1, ih (some a) ?_ (fun y hy => hne y (List.mem_cons_of_mem _ hy)) h.2⟩
      simp only [loBelow, decide_eq_true_eq]; omega

/-- Setting a key keeps the canonical form. -/
theorem smWf_smSet (dflt : Nat → α) (m : SMap α) (k : Nat) (v : α) (h : smWf dflt m = true) : smWf dflt (smSet dflt m k v) = true := by
  unfold smSet smWf
  split
  · exact smWfFrom_smDel dflt k m none h
  · rename_i hv
    exact smWfFrom_smIns dflt k v hv _ none rfl (smDel_lacks m k) (smWfFrom_smDel dflt k m none h)

end Sys2Proof.Machine
end

