-- ==== Sys2Proof/Laws/Memory.lean ====
section
/-! SUPPORT. The laws of bank memory: a read after a write, and that every memory operation keeps the canonical form. -/

namespace Sys2Proof.Machine

open Sys2Proof

@[simp] theorem Mem.read_write_self (m : Mem) (a : Nat) (v : Byte) : (m.write a v).read a = v := smGet_smSet_self memZero m a v

theorem Mem.read_write_ne (m : Mem) (v : Byte) {a x : Nat} (h : x ≠ a) : (m.write a v).read x = m.read x :=
  smGet_smSet_ne memZero m v h

theorem Mem.wf_write (m : Mem) (a : Nat) (v : Byte) (h : m.wf = true) : (m.write a v).wf = true := smWf_smSet memZero m a v h

/-- Bytes outside a stored run read as before. -/
theorem Mem.read_writeBytes_outside (l : List Byte) :
    ∀ (m : Mem) (a x : Nat), x < a ∨ a + l.length ≤ x → (m.writeBytes a l).read x = m.read x := by
  induction l with
  | nil => intro m a x _; rfl
  | cons b r ih =>
    intro m a x h
    simp only [List.length_cons] at h
    simp only [Mem.writeBytes]
    rw [ih (m.write a b) (a + 1) x (by omega), Mem.read_write_ne m b (by omega)]

/-- A byte inside a stored run reads as the byte stored there. -/
theorem Mem.read_writeBytes_inside (l : List Byte) :
    ∀ (m : Mem) (a n : Nat), n < l.length → (m.writeBytes a l).read (a + n) = l.getD n 0 := by
  induction l with
  | nil => intro m a n h; simp at h
  | cons b r ih =>
    intro m a n h
    simp only [Mem.writeBytes]
    cases n with
    | zero =>
      rw [show a + 0 = a from rfl, Mem.read_writeBytes_outside r (m.write a b) (a + 1) a (by omega), Mem.read_write_self]
      rfl
    | succ n =>
      have h' : n < r.length := by simp only [List.length_cons] at h; omega
      have := ih (m.write a b) (a + 1) n h'
      rw [show a + (n + 1) = a + 1 + n by omega, this]
      rfl

theorem Mem.wf_writeBytes (l : List Byte) : ∀ (m : Mem) (a : Nat), m.wf = true → (m.writeBytes a l).wf = true := by
  induction l with
  | nil => intro m a h; exact h
  | cons b r ih => intro m a h; exact ih (m.write a b) (a + 1) (Mem.wf_write m a b h)

theorem leBytes_length (n : Nat) : ∀ x, (leBytes n x).length = n := by
  induction n with
  | zero => intro x; rfl
  | succ n ih => intro x; simp only [leBytes, List.length_cons, ih]

theorem Mem.wf_write32 (m : Mem) (a : Nat) (w : Word) (h : m.wf = true) : (m.write32 a w).wf = true := Mem.wf_writeBytes _ m a h

/-- Bytes outside a stored word read as before. -/
theorem Mem.read_write32_outside (m : Mem) (a x : Nat) (w : Word) (h : x < a ∨ a + 4 ≤ x) : (m.write32 a w).read x = m.read x :=
  Mem.read_writeBytes_outside _ m a x (by rw [leBytes_length]; exact h)

/-- The little-endian bytes of a word give the word back. -/
theorem Mem.read32_write32 (m : Mem) (a : Nat) (w : Word) : (m.write32 a w).read32 a = w := by
  have hb (n : Nat) (h : n < 4) : (m.write32 a w).read (a + n) = (leBytes 4 w.toNat).getD n 0 :=
    Mem.read_writeBytes_inside _ m a n (by rw [leBytes_length]; exact h)
  have h0 := hb 0 (by omega)
  have h1 := hb 1 (by omega)
  have h2 := hb 2 (by omega)
  have h3 := hb 3 (by omega)
  rw [Nat.add_zero] at h0
  unfold Mem.read32
  rw [h0, h1, h2, h3]
  have hw := w.isLt
  apply BitVec.eq_of_toNat_eq
  simp only [leBytes, List.getD_cons_zero, List.getD_cons_succ, BitVec.toNat_ofNat]
  omega

end Sys2Proof.Machine
end

