-- ==== Sys2Proof/Laws/State.lean ====
section
/-! SUPPORT. What each update of the device changes and what it leaves alone, one lemma per field, and the laws of registers, channels and banks. -/

namespace Sys2Proof.Machine

open Sys2Proof

variable (d : Dev)

/-! ### A register written -/

@[simp] theorem wr_regs (k : Blk) (off : Nat) (v : Word) : (wr d k off v).regs = smSet regDefault d.regs (regKey k off) v := by unfold wr; rfl
@[simp] theorem wr_unlocked (k : Blk) (off : Nat) (v : Word) : (wr d k off v).unlocked = d.unlocked := by unfold wr; rfl
@[simp] theorem wr_seen (k : Blk) (off : Nat) (v : Word) : (wr d k off v).seen = d.seen := by unfold wr; rfl
@[simp] theorem wr_advanced (k : Blk) (off : Nat) (v : Word) : (wr d k off v).advanced = d.advanced := by unfold wr; rfl
@[simp] theorem wr_written (k : Blk) (off : Nat) (v : Word) : (wr d k off v).written = d.written := by unfold wr; rfl
@[simp] theorem wr_live (k : Blk) (off : Nat) (v : Word) : (wr d k off v).live = d.live := by unfold wr; rfl
@[simp] theorem wr_mirror (k : Blk) (off : Nat) (v : Word) : (wr d k off v).mirror = d.mirror := by unfold wr; rfl
@[simp] theorem wr_ports (k : Blk) (off : Nat) (v : Word) : (wr d k off v).ports = d.ports := by unfold wr; rfl
@[simp] theorem wr_msp (k : Blk) (off : Nat) (v : Word) : (wr d k off v).msp = d.msp := by unfold wr; rfl
@[simp] theorem wr_tb (k : Blk) (off : Nat) (v : Word) : (wr d k off v).tb = d.tb := by unfold wr; rfl
@[simp] theorem wr_xc (k : Blk) (off : Nat) (v : Word) : (wr d k off v).xc = d.xc := by unfold wr; rfl
@[simp] theorem wr_sl (k : Blk) (off : Nat) (v : Word) : (wr d k off v).sl = d.sl := by unfold wr; rfl
@[simp] theorem wr_pwr (k : Blk) (off : Nat) (v : Word) : (wr d k off v).pwr = d.pwr := by unfold wr; rfl
@[simp] theorem wr_folio (k : Blk) (off : Nat) (v : Word) : (wr d k off v).folio = d.folio := by unfold wr; rfl
@[simp] theorem wr_led (k : Blk) (off : Nat) (v : Word) : (wr d k off v).led = d.led := by unfold wr; rfl
@[simp] theorem wr_cat (k : Blk) (off : Nat) (v : Word) : (wr d k off v).cat = d.cat := by unfold wr; rfl
@[simp] theorem wr_thm (k : Blk) (off : Nat) (v : Word) : (wr d k off v).thm = d.thm := by unfold wr; rfl
@[simp] theorem wr_sec (k : Blk) (off : Nat) (v : Word) : (wr d k off v).sec = d.sec := by unfold wr; rfl
@[simp] theorem wr_chans (k : Blk) (off : Nat) (v : Word) : (wr d k off v).chans = d.chans := by unfold wr; rfl
@[simp] theorem wr_banks (k : Blk) (off : Nat) (v : Word) : (wr d k off v).banks = d.banks := by unfold wr; rfl
@[simp] theorem wr_gtPulse (k : Blk) (off : Nat) (v : Word) : (wr d k off v).gtPulse = d.gtPulse := by unfold wr; rfl
@[simp] theorem wr_gtRemote (k : Blk) (off : Nat) (v : Word) : (wr d k off v).gtRemote = d.gtRemote := by unfold wr; rfl
@[simp] theorem wr_trigOut (k : Blk) (off : Nat) (v : Word) : (wr d k off v).trigOut = d.trigOut := by unfold wr; rfl
@[simp] theorem wr_free (k : Blk) (off : Nat) (v : Word) : (wr d k off v).free = d.free := by unfold wr; rfl

/-! ### A register field written -/

@[simp] theorem setFld_regs (k : Blk) (off hi lo v : Nat) : (setFld d k off hi lo v).regs = smSet regDefault d.regs (regKey k off) (putBits (rd d k off) hi lo v) := by unfold setFld wr; rfl
@[simp] theorem setFld_unlocked (k : Blk) (off hi lo v : Nat) : (setFld d k off hi lo v).unlocked = d.unlocked := by unfold setFld wr; rfl
@[simp] theorem setFld_seen (k : Blk) (off hi lo v : Nat) : (setFld d k off hi lo v).seen = d.seen := by unfold setFld wr; rfl
@[simp] theorem setFld_advanced (k : Blk) (off hi lo v : Nat) : (setFld d k off hi lo v).advanced = d.advanced := by unfold setFld wr; rfl
@[simp] theorem setFld_written (k : Blk) (off hi lo v : Nat) : (setFld d k off hi lo v).written = d.written := by unfold setFld wr; rfl
@[simp] theorem setFld_live (k : Blk) (off hi lo v : Nat) : (setFld d k off hi lo v).live = d.live := by unfold setFld wr; rfl
@[simp] theorem setFld_mirror (k : Blk) (off hi lo v : Nat) : (setFld d k off hi lo v).mirror = d.mirror := by unfold setFld wr; rfl
@[simp] theorem setFld_ports (k : Blk) (off hi lo v : Nat) : (setFld d k off hi lo v).ports = d.ports := by unfold setFld wr; rfl
@[simp] theorem setFld_msp (k : Blk) (off hi lo v : Nat) : (setFld d k off hi lo v).msp = d.msp := by unfold setFld wr; rfl
@[simp] theorem setFld_tb (k : Blk) (off hi lo v : Nat) : (setFld d k off hi lo v).tb = d.tb := by unfold setFld wr; rfl
@[simp] theorem setFld_xc (k : Blk) (off hi lo v : Nat) : (setFld d k off hi lo v).xc = d.xc := by unfold setFld wr; rfl
@[simp] theorem setFld_sl (k : Blk) (off hi lo v : Nat) : (setFld d k off hi lo v).sl = d.sl := by unfold setFld wr; rfl
@[simp] theorem setFld_pwr (k : Blk) (off hi lo v : Nat) : (setFld d k off hi lo v).pwr = d.pwr := by unfold setFld wr; rfl
@[simp] theorem setFld_folio (k : Blk) (off hi lo v : Nat) : (setFld d k off hi lo v).folio = d.folio := by unfold setFld wr; rfl
@[simp] theorem setFld_led (k : Blk) (off hi lo v : Nat) : (setFld d k off hi lo v).led = d.led := by unfold setFld wr; rfl
@[simp] theorem setFld_cat (k : Blk) (off hi lo v : Nat) : (setFld d k off hi lo v).cat = d.cat := by unfold setFld wr; rfl
@[simp] theorem setFld_thm (k : Blk) (off hi lo v : Nat) : (setFld d k off hi lo v).thm = d.thm := by unfold setFld wr; rfl
@[simp] theorem setFld_sec (k : Blk) (off hi lo v : Nat) : (setFld d k off hi lo v).sec = d.sec := by unfold setFld wr; rfl
@[simp] theorem setFld_chans (k : Blk) (off hi lo v : Nat) : (setFld d k off hi lo v).chans = d.chans := by unfold setFld wr; rfl
@[simp] theorem setFld_banks (k : Blk) (off hi lo v : Nat) : (setFld d k off hi lo v).banks = d.banks := by unfold setFld wr; rfl
@[simp] theorem setFld_gtPulse (k : Blk) (off hi lo v : Nat) : (setFld d k off hi lo v).gtPulse = d.gtPulse := by unfold setFld wr; rfl
@[simp] theorem setFld_gtRemote (k : Blk) (off hi lo v : Nat) : (setFld d k off hi lo v).gtRemote = d.gtRemote := by unfold setFld wr; rfl
@[simp] theorem setFld_trigOut (k : Blk) (off hi lo v : Nat) : (setFld d k off hi lo v).trigOut = d.trigOut := by unfold setFld wr; rfl
@[simp] theorem setFld_free (k : Blk) (off hi lo v : Nat) : (setFld d k off hi lo v).free = d.free := by unfold setFld wr; rfl

/-! ### A register bit written -/

@[simp] theorem setFlag_regs (k : Blk) (off i : Nat) (b : Bool) : (setFlag d k off i b).regs = smSet regDefault d.regs (regKey k off) (putBit (rd d k off) i b) := by unfold setFlag wr; rfl
@[simp] theorem setFlag_unlocked (k : Blk) (off i : Nat) (b : Bool) : (setFlag d k off i b).unlocked = d.unlocked := by unfold setFlag wr; rfl
@[simp] theorem setFlag_seen (k : Blk) (off i : Nat) (b : Bool) : (setFlag d k off i b).seen = d.seen := by unfold setFlag wr; rfl
@[simp] theorem setFlag_advanced (k : Blk) (off i : Nat) (b : Bool) : (setFlag d k off i b).advanced = d.advanced := by unfold setFlag wr; rfl
@[simp] theorem setFlag_written (k : Blk) (off i : Nat) (b : Bool) : (setFlag d k off i b).written = d.written := by unfold setFlag wr; rfl
@[simp] theorem setFlag_live (k : Blk) (off i : Nat) (b : Bool) : (setFlag d k off i b).live = d.live := by unfold setFlag wr; rfl
@[simp] theorem setFlag_mirror (k : Blk) (off i : Nat) (b : Bool) : (setFlag d k off i b).mirror = d.mirror := by unfold setFlag wr; rfl
@[simp] theorem setFlag_ports (k : Blk) (off i : Nat) (b : Bool) : (setFlag d k off i b).ports = d.ports := by unfold setFlag wr; rfl
@[simp] theorem setFlag_msp (k : Blk) (off i : Nat) (b : Bool) : (setFlag d k off i b).msp = d.msp := by unfold setFlag wr; rfl
@[simp] theorem setFlag_tb (k : Blk) (off i : Nat) (b : Bool) : (setFlag d k off i b).tb = d.tb := by unfold setFlag wr; rfl
@[simp] theorem setFlag_xc (k : Blk) (off i : Nat) (b : Bool) : (setFlag d k off i b).xc = d.xc := by unfold setFlag wr; rfl
@[simp] theorem setFlag_sl (k : Blk) (off i : Nat) (b : Bool) : (setFlag d k off i b).sl = d.sl := by unfold setFlag wr; rfl
@[simp] theorem setFlag_pwr (k : Blk) (off i : Nat) (b : Bool) : (setFlag d k off i b).pwr = d.pwr := by unfold setFlag wr; rfl
@[simp] theorem setFlag_folio (k : Blk) (off i : Nat) (b : Bool) : (setFlag d k off i b).folio = d.folio := by unfold setFlag wr; rfl
@[simp] theorem setFlag_led (k : Blk) (off i : Nat) (b : Bool) : (setFlag d k off i b).led = d.led := by unfold setFlag wr; rfl
@[simp] theorem setFlag_cat (k : Blk) (off i : Nat) (b : Bool) : (setFlag d k off i b).cat = d.cat := by unfold setFlag wr; rfl
@[simp] theorem setFlag_thm (k : Blk) (off i : Nat) (b : Bool) : (setFlag d k off i b).thm = d.thm := by unfold setFlag wr; rfl
@[simp] theorem setFlag_sec (k : Blk) (off i : Nat) (b : Bool) : (setFlag d k off i b).sec = d.sec := by unfold setFlag wr; rfl
@[simp] theorem setFlag_chans (k : Blk) (off i : Nat) (b : Bool) : (setFlag d k off i b).chans = d.chans := by unfold setFlag wr; rfl
@[simp] theorem setFlag_banks (k : Blk) (off i : Nat) (b : Bool) : (setFlag d k off i b).banks = d.banks := by unfold setFlag wr; rfl
@[simp] theorem setFlag_gtPulse (k : Blk) (off i : Nat) (b : Bool) : (setFlag d k off i b).gtPulse = d.gtPulse := by unfold setFlag wr; rfl
@[simp] theorem setFlag_gtRemote (k : Blk) (off i : Nat) (b : Bool) : (setFlag d k off i b).gtRemote = d.gtRemote := by unfold setFlag wr; rfl
@[simp] theorem setFlag_trigOut (k : Blk) (off i : Nat) (b : Bool) : (setFlag d k off i b).trigOut = d.trigOut := by unfold setFlag wr; rfl
@[simp] theorem setFlag_free (k : Blk) (off i : Nat) (b : Bool) : (setFlag d k off i b).free = d.free := by unfold setFlag wr; rfl

/-! ### A register counted up -/

@[simp] theorem bump_regs (k : Blk) (off : Nat) : (bump d k off).regs = smSet regDefault d.regs (regKey k off) (BitVec.ofNat 32 (satInc 0xFFFFFFFF (rd d k off).toNat)) := by unfold bump wr; rfl
@[simp] theorem bump_unlocked (k : Blk) (off : Nat) : (bump d k off).unlocked = d.unlocked := by unfold bump wr; rfl
@[simp] theorem bump_seen (k : Blk) (off : Nat) : (bump d k off).seen = d.seen := by unfold bump wr; rfl
@[simp] theorem bump_advanced (k : Blk) (off : Nat) : (bump d k off).advanced = d.advanced := by unfold bump wr; rfl
@[simp] theorem bump_written (k : Blk) (off : Nat) : (bump d k off).written = d.written := by unfold bump wr; rfl
@[simp] theorem bump_live (k : Blk) (off : Nat) : (bump d k off).live = d.live := by unfold bump wr; rfl
@[simp] theorem bump_mirror (k : Blk) (off : Nat) : (bump d k off).mirror = d.mirror := by unfold bump wr; rfl
@[simp] theorem bump_ports (k : Blk) (off : Nat) : (bump d k off).ports = d.ports := by unfold bump wr; rfl
@[simp] theorem bump_msp (k : Blk) (off : Nat) : (bump d k off).msp = d.msp := by unfold bump wr; rfl
@[simp] theorem bump_tb (k : Blk) (off : Nat) : (bump d k off).tb = d.tb := by unfold bump wr; rfl
@[simp] theorem bump_xc (k : Blk) (off : Nat) : (bump d k off).xc = d.xc := by unfold bump wr; rfl
@[simp] theorem bump_sl (k : Blk) (off : Nat) : (bump d k off).sl = d.sl := by unfold bump wr; rfl
@[simp] theorem bump_pwr (k : Blk) (off : Nat) : (bump d k off).pwr = d.pwr := by unfold bump wr; rfl
@[simp] theorem bump_folio (k : Blk) (off : Nat) : (bump d k off).folio = d.folio := by unfold bump wr; rfl
@[simp] theorem bump_led (k : Blk) (off : Nat) : (bump d k off).led = d.led := by unfold bump wr; rfl
@[simp] theorem bump_cat (k : Blk) (off : Nat) : (bump d k off).cat = d.cat := by unfold bump wr; rfl
@[simp] theorem bump_thm (k : Blk) (off : Nat) : (bump d k off).thm = d.thm := by unfold bump wr; rfl
@[simp] theorem bump_sec (k : Blk) (off : Nat) : (bump d k off).sec = d.sec := by unfold bump wr; rfl
@[simp] theorem bump_chans (k : Blk) (off : Nat) : (bump d k off).chans = d.chans := by unfold bump wr; rfl
@[simp] theorem bump_banks (k : Blk) (off : Nat) : (bump d k off).banks = d.banks := by unfold bump wr; rfl
@[simp] theorem bump_gtPulse (k : Blk) (off : Nat) : (bump d k off).gtPulse = d.gtPulse := by unfold bump wr; rfl
@[simp] theorem bump_gtRemote (k : Blk) (off : Nat) : (bump d k off).gtRemote = d.gtRemote := by unfold bump wr; rfl
@[simp] theorem bump_trigOut (k : Blk) (off : Nat) : (bump d k off).trigOut = d.trigOut := by unfold bump wr; rfl
@[simp] theorem bump_free (k : Blk) (off : Nat) : (bump d k off).free = d.free := by unfold bump wr; rfl

/-! ### A channel changed -/

@[simp] theorem modCh_regs (c : Chan) (f : ChanSt → ChanSt) : (modCh d c f).regs = d.regs := by unfold modCh; rfl
@[simp] theorem modCh_unlocked (c : Chan) (f : ChanSt → ChanSt) : (modCh d c f).unlocked = d.unlocked := by unfold modCh; rfl
@[simp] theorem modCh_seen (c : Chan) (f : ChanSt → ChanSt) : (modCh d c f).seen = d.seen := by unfold modCh; rfl
@[simp] theorem modCh_advanced (c : Chan) (f : ChanSt → ChanSt) : (modCh d c f).advanced = d.advanced := by unfold modCh; rfl
@[simp] theorem modCh_written (c : Chan) (f : ChanSt → ChanSt) : (modCh d c f).written = d.written := by unfold modCh; rfl
@[simp] theorem modCh_live (c : Chan) (f : ChanSt → ChanSt) : (modCh d c f).live = d.live := by unfold modCh; rfl
@[simp] theorem modCh_mirror (c : Chan) (f : ChanSt → ChanSt) : (modCh d c f).mirror = d.mirror := by unfold modCh; rfl
@[simp] theorem modCh_ports (c : Chan) (f : ChanSt → ChanSt) : (modCh d c f).ports = d.ports := by unfold modCh; rfl
@[simp] theorem modCh_msp (c : Chan) (f : ChanSt → ChanSt) : (modCh d c f).msp = d.msp := by unfold modCh; rfl
@[simp] theorem modCh_tb (c : Chan) (f : ChanSt → ChanSt) : (modCh d c f).tb = d.tb := by unfold modCh; rfl
@[simp] theorem modCh_xc (c : Chan) (f : ChanSt → ChanSt) : (modCh d c f).xc = d.xc := by unfold modCh; rfl
@[simp] theorem modCh_sl (c : Chan) (f : ChanSt → ChanSt) : (modCh d c f).sl = d.sl := by unfold modCh; rfl
@[simp] theorem modCh_pwr (c : Chan) (f : ChanSt → ChanSt) : (modCh d c f).pwr = d.pwr := by unfold modCh; rfl
@[simp] theorem modCh_folio (c : Chan) (f : ChanSt → ChanSt) : (modCh d c f).folio = d.folio := by unfold modCh; rfl
@[simp] theorem modCh_led (c : Chan) (f : ChanSt → ChanSt) : (modCh d c f).led = d.led := by unfold modCh; rfl
@[simp] theorem modCh_cat (c : Chan) (f : ChanSt → ChanSt) : (modCh d c f).cat = d.cat := by unfold modCh; rfl
@[simp] theorem modCh_thm (c : Chan) (f : ChanSt → ChanSt) : (modCh d c f).thm = d.thm := by unfold modCh; rfl
@[simp] theorem modCh_sec (c : Chan) (f : ChanSt → ChanSt) : (modCh d c f).sec = d.sec := by unfold modCh; rfl
@[simp] theorem modCh_chans (c : Chan) (f : ChanSt → ChanSt) : (modCh d c f).chans = d.chans.set c.val (f (d.chans.get c)) c.isLt := by unfold modCh; rfl
@[simp] theorem modCh_banks (c : Chan) (f : ChanSt → ChanSt) : (modCh d c f).banks = d.banks := by unfold modCh; rfl
@[simp] theorem modCh_gtPulse (c : Chan) (f : ChanSt → ChanSt) : (modCh d c f).gtPulse = d.gtPulse := by unfold modCh; rfl
@[simp] theorem modCh_gtRemote (c : Chan) (f : ChanSt → ChanSt) : (modCh d c f).gtRemote = d.gtRemote := by unfold modCh; rfl
@[simp] theorem modCh_trigOut (c : Chan) (f : ChanSt → ChanSt) : (modCh d c f).trigOut = d.trigOut := by unfold modCh; rfl
@[simp] theorem modCh_free (c : Chan) (f : ChanSt → ChanSt) : (modCh d c f).free = d.free := by unfold modCh; rfl

/-! ### A bank changed -/

@[simp] theorem modBk_regs (b : Bank) (f : BankSt → BankSt) : (modBk d b f).regs = d.regs := by unfold modBk; rfl
@[simp] theorem modBk_unlocked (b : Bank) (f : BankSt → BankSt) : (modBk d b f).unlocked = d.unlocked := by unfold modBk; rfl
@[simp] theorem modBk_seen (b : Bank) (f : BankSt → BankSt) : (modBk d b f).seen = d.seen := by unfold modBk; rfl
@[simp] theorem modBk_advanced (b : Bank) (f : BankSt → BankSt) : (modBk d b f).advanced = d.advanced := by unfold modBk; rfl
@[simp] theorem modBk_written (b : Bank) (f : BankSt → BankSt) : (modBk d b f).written = d.written := by unfold modBk; rfl
@[simp] theorem modBk_live (b : Bank) (f : BankSt → BankSt) : (modBk d b f).live = d.live := by unfold modBk; rfl
@[simp] theorem modBk_mirror (b : Bank) (f : BankSt → BankSt) : (modBk d b f).mirror = d.mirror := by unfold modBk; rfl
@[simp] theorem modBk_ports (b : Bank) (f : BankSt → BankSt) : (modBk d b f).ports = d.ports := by unfold modBk; rfl
@[simp] theorem modBk_msp (b : Bank) (f : BankSt → BankSt) : (modBk d b f).msp = d.msp := by unfold modBk; rfl
@[simp] theorem modBk_tb (b : Bank) (f : BankSt → BankSt) : (modBk d b f).tb = d.tb := by unfold modBk; rfl
@[simp] theorem modBk_xc (b : Bank) (f : BankSt → BankSt) : (modBk d b f).xc = d.xc := by unfold modBk; rfl
@[simp] theorem modBk_sl (b : Bank) (f : BankSt → BankSt) : (modBk d b f).sl = d.sl := by unfold modBk; rfl
@[simp] theorem modBk_pwr (b : Bank) (f : BankSt → BankSt) : (modBk d b f).pwr = d.pwr := by unfold modBk; rfl
@[simp] theorem modBk_folio (b : Bank) (f : BankSt → BankSt) : (modBk d b f).folio = d.folio := by unfold modBk; rfl
@[simp] theorem modBk_led (b : Bank) (f : BankSt → BankSt) : (modBk d b f).led = d.led := by unfold modBk; rfl
@[simp] theorem modBk_cat (b : Bank) (f : BankSt → BankSt) : (modBk d b f).cat = d.cat := by unfold modBk; rfl
@[simp] theorem modBk_thm (b : Bank) (f : BankSt → BankSt) : (modBk d b f).thm = d.thm := by unfold modBk; rfl
@[simp] theorem modBk_sec (b : Bank) (f : BankSt → BankSt) : (modBk d b f).sec = d.sec := by unfold modBk; rfl
@[simp] theorem modBk_chans (b : Bank) (f : BankSt → BankSt) : (modBk d b f).chans = d.chans := by unfold modBk; rfl
@[simp] theorem modBk_banks (b : Bank) (f : BankSt → BankSt) : (modBk d b f).banks = d.banks.set b.val (f (d.banks.get b)) b.isLt := by unfold modBk; rfl
@[simp] theorem modBk_gtPulse (b : Bank) (f : BankSt → BankSt) : (modBk d b f).gtPulse = d.gtPulse := by unfold modBk; rfl
@[simp] theorem modBk_gtRemote (b : Bank) (f : BankSt → BankSt) : (modBk d b f).gtRemote = d.gtRemote := by unfold modBk; rfl
@[simp] theorem modBk_trigOut (b : Bank) (f : BankSt → BankSt) : (modBk d b f).trigOut = d.trigOut := by unfold modBk; rfl
@[simp] theorem modBk_free (b : Bank) (f : BankSt → BankSt) : (modBk d b f).free = d.free := by unfold modBk; rfl

/-! ### The `tb` field changed -/

@[simp] theorem modTb_regs (f : TimeBase → TimeBase) : (modTb d f).regs = d.regs := by unfold modTb; rfl
@[simp] theorem modTb_unlocked (f : TimeBase → TimeBase) : (modTb d f).unlocked = d.unlocked := by unfold modTb; rfl
@[simp] theorem modTb_seen (f : TimeBase → TimeBase) : (modTb d f).seen = d.seen := by unfold modTb; rfl
@[simp] theorem modTb_advanced (f : TimeBase → TimeBase) : (modTb d f).advanced = d.advanced := by unfold modTb; rfl
@[simp] theorem modTb_written (f : TimeBase → TimeBase) : (modTb d f).written = d.written := by unfold modTb; rfl
@[simp] theorem modTb_live (f : TimeBase → TimeBase) : (modTb d f).live = d.live := by unfold modTb; rfl
@[simp] theorem modTb_mirror (f : TimeBase → TimeBase) : (modTb d f).mirror = d.mirror := by unfold modTb; rfl
@[simp] theorem modTb_ports (f : TimeBase → TimeBase) : (modTb d f).ports = d.ports := by unfold modTb; rfl
@[simp] theorem modTb_msp (f : TimeBase → TimeBase) : (modTb d f).msp = d.msp := by unfold modTb; rfl
@[simp] theorem modTb_tb (f : TimeBase → TimeBase) : (modTb d f).tb = f d.tb := by unfold modTb; rfl
@[simp] theorem modTb_xc (f : TimeBase → TimeBase) : (modTb d f).xc = d.xc := by unfold modTb; rfl
@[simp] theorem modTb_sl (f : TimeBase → TimeBase) : (modTb d f).sl = d.sl := by unfold modTb; rfl
@[simp] theorem modTb_pwr (f : TimeBase → TimeBase) : (modTb d f).pwr = d.pwr := by unfold modTb; rfl
@[simp] theorem modTb_folio (f : TimeBase → TimeBase) : (modTb d f).folio = d.folio := by unfold modTb; rfl
@[simp] theorem modTb_led (f : TimeBase → TimeBase) : (modTb d f).led = d.led := by unfold modTb; rfl
@[simp] theorem modTb_cat (f : TimeBase → TimeBase) : (modTb d f).cat = d.cat := by unfold modTb; rfl
@[simp] theorem modTb_thm (f : TimeBase → TimeBase) : (modTb d f).thm = d.thm := by unfold modTb; rfl
@[simp] theorem modTb_sec (f : TimeBase → TimeBase) : (modTb d f).sec = d.sec := by unfold modTb; rfl
@[simp] theorem modTb_chans (f : TimeBase → TimeBase) : (modTb d f).chans = d.chans := by unfold modTb; rfl
@[simp] theorem modTb_banks (f : TimeBase → TimeBase) : (modTb d f).banks = d.banks := by unfold modTb; rfl
@[simp] theorem modTb_gtPulse (f : TimeBase → TimeBase) : (modTb d f).gtPulse = d.gtPulse := by unfold modTb; rfl
@[simp] theorem modTb_gtRemote (f : TimeBase → TimeBase) : (modTb d f).gtRemote = d.gtRemote := by unfold modTb; rfl
@[simp] theorem modTb_trigOut (f : TimeBase → TimeBase) : (modTb d f).trigOut = d.trigOut := by unfold modTb; rfl
@[simp] theorem modTb_free (f : TimeBase → TimeBase) : (modTb d f).free = d.free := by unfold modTb; rfl

/-! ### The `xc` field changed -/

@[simp] theorem modXc_regs (f : Crossing → Crossing) : (modXc d f).regs = d.regs := by unfold modXc; rfl
@[simp] theorem modXc_unlocked (f : Crossing → Crossing) : (modXc d f).unlocked = d.unlocked := by unfold modXc; rfl
@[simp] theorem modXc_seen (f : Crossing → Crossing) : (modXc d f).seen = d.seen := by unfold modXc; rfl
@[simp] theorem modXc_advanced (f : Crossing → Crossing) : (modXc d f).advanced = d.advanced := by unfold modXc; rfl
@[simp] theorem modXc_written (f : Crossing → Crossing) : (modXc d f).written = d.written := by unfold modXc; rfl
@[simp] theorem modXc_live (f : Crossing → Crossing) : (modXc d f).live = d.live := by unfold modXc; rfl
@[simp] theorem modXc_mirror (f : Crossing → Crossing) : (modXc d f).mirror = d.mirror := by unfold modXc; rfl
@[simp] theorem modXc_ports (f : Crossing → Crossing) : (modXc d f).ports = d.ports := by unfold modXc; rfl
@[simp] theorem modXc_msp (f : Crossing → Crossing) : (modXc d f).msp = d.msp := by unfold modXc; rfl
@[simp] theorem modXc_tb (f : Crossing → Crossing) : (modXc d f).tb = d.tb := by unfold modXc; rfl
@[simp] theorem modXc_xc (f : Crossing → Crossing) : (modXc d f).xc = f d.xc := by unfold modXc; rfl
@[simp] theorem modXc_sl (f : Crossing → Crossing) : (modXc d f).sl = d.sl := by unfold modXc; rfl
@[simp] theorem modXc_pwr (f : Crossing → Crossing) : (modXc d f).pwr = d.pwr := by unfold modXc; rfl
@[simp] theorem modXc_folio (f : Crossing → Crossing) : (modXc d f).folio = d.folio := by unfold modXc; rfl
@[simp] theorem modXc_led (f : Crossing → Crossing) : (modXc d f).led = d.led := by unfold modXc; rfl
@[simp] theorem modXc_cat (f : Crossing → Crossing) : (modXc d f).cat = d.cat := by unfold modXc; rfl
@[simp] theorem modXc_thm (f : Crossing → Crossing) : (modXc d f).thm = d.thm := by unfold modXc; rfl
@[simp] theorem modXc_sec (f : Crossing → Crossing) : (modXc d f).sec = d.sec := by unfold modXc; rfl
@[simp] theorem modXc_chans (f : Crossing → Crossing) : (modXc d f).chans = d.chans := by unfold modXc; rfl
@[simp] theorem modXc_banks (f : Crossing → Crossing) : (modXc d f).banks = d.banks := by unfold modXc; rfl
@[simp] theorem modXc_gtPulse (f : Crossing → Crossing) : (modXc d f).gtPulse = d.gtPulse := by unfold modXc; rfl
@[simp] theorem modXc_gtRemote (f : Crossing → Crossing) : (modXc d f).gtRemote = d.gtRemote := by unfold modXc; rfl
@[simp] theorem modXc_trigOut (f : Crossing → Crossing) : (modXc d f).trigOut = d.trigOut := by unfold modXc; rfl
@[simp] theorem modXc_free (f : Crossing → Crossing) : (modXc d f).free = d.free := by unfold modXc; rfl

/-! ### The `sl` field changed -/

@[simp] theorem modSl_regs (f : ShelfLink → ShelfLink) : (modSl d f).regs = d.regs := by unfold modSl; rfl
@[simp] theorem modSl_unlocked (f : ShelfLink → ShelfLink) : (modSl d f).unlocked = d.unlocked := by unfold modSl; rfl
@[simp] theorem modSl_seen (f : ShelfLink → ShelfLink) : (modSl d f).seen = d.seen := by unfold modSl; rfl
@[simp] theorem modSl_advanced (f : ShelfLink → ShelfLink) : (modSl d f).advanced = d.advanced := by unfold modSl; rfl
@[simp] theorem modSl_written (f : ShelfLink → ShelfLink) : (modSl d f).written = d.written := by unfold modSl; rfl
@[simp] theorem modSl_live (f : ShelfLink → ShelfLink) : (modSl d f).live = d.live := by unfold modSl; rfl
@[simp] theorem modSl_mirror (f : ShelfLink → ShelfLink) : (modSl d f).mirror = d.mirror := by unfold modSl; rfl
@[simp] theorem modSl_ports (f : ShelfLink → ShelfLink) : (modSl d f).ports = d.ports := by unfold modSl; rfl
@[simp] theorem modSl_msp (f : ShelfLink → ShelfLink) : (modSl d f).msp = d.msp := by unfold modSl; rfl
@[simp] theorem modSl_tb (f : ShelfLink → ShelfLink) : (modSl d f).tb = d.tb := by unfold modSl; rfl
@[simp] theorem modSl_xc (f : ShelfLink → ShelfLink) : (modSl d f).xc = d.xc := by unfold modSl; rfl
@[simp] theorem modSl_sl (f : ShelfLink → ShelfLink) : (modSl d f).sl = f d.sl := by unfold modSl; rfl
@[simp] theorem modSl_pwr (f : ShelfLink → ShelfLink) : (modSl d f).pwr = d.pwr := by unfold modSl; rfl
@[simp] theorem modSl_folio (f : ShelfLink → ShelfLink) : (modSl d f).folio = d.folio := by unfold modSl; rfl
@[simp] theorem modSl_led (f : ShelfLink → ShelfLink) : (modSl d f).led = d.led := by unfold modSl; rfl
@[simp] theorem modSl_cat (f : ShelfLink → ShelfLink) : (modSl d f).cat = d.cat := by unfold modSl; rfl
@[simp] theorem modSl_thm (f : ShelfLink → ShelfLink) : (modSl d f).thm = d.thm := by unfold modSl; rfl
@[simp] theorem modSl_sec (f : ShelfLink → ShelfLink) : (modSl d f).sec = d.sec := by unfold modSl; rfl
@[simp] theorem modSl_chans (f : ShelfLink → ShelfLink) : (modSl d f).chans = d.chans := by unfold modSl; rfl
@[simp] theorem modSl_banks (f : ShelfLink → ShelfLink) : (modSl d f).banks = d.banks := by unfold modSl; rfl
@[simp] theorem modSl_gtPulse (f : ShelfLink → ShelfLink) : (modSl d f).gtPulse = d.gtPulse := by unfold modSl; rfl
@[simp] theorem modSl_gtRemote (f : ShelfLink → ShelfLink) : (modSl d f).gtRemote = d.gtRemote := by unfold modSl; rfl
@[simp] theorem modSl_trigOut (f : ShelfLink → ShelfLink) : (modSl d f).trigOut = d.trigOut := by unfold modSl; rfl
@[simp] theorem modSl_free (f : ShelfLink → ShelfLink) : (modSl d f).free = d.free := by unfold modSl; rfl

/-! ### The `pwr` field changed -/

@[simp] theorem modPwr_regs (f : Power → Power) : (modPwr d f).regs = d.regs := by unfold modPwr; rfl
@[simp] theorem modPwr_unlocked (f : Power → Power) : (modPwr d f).unlocked = d.unlocked := by unfold modPwr; rfl
@[simp] theorem modPwr_seen (f : Power → Power) : (modPwr d f).seen = d.seen := by unfold modPwr; rfl
@[simp] theorem modPwr_advanced (f : Power → Power) : (modPwr d f).advanced = d.advanced := by unfold modPwr; rfl
@[simp] theorem modPwr_written (f : Power → Power) : (modPwr d f).written = d.written := by unfold modPwr; rfl
@[simp] theorem modPwr_live (f : Power → Power) : (modPwr d f).live = d.live := by unfold modPwr; rfl
@[simp] theorem modPwr_mirror (f : Power → Power) : (modPwr d f).mirror = d.mirror := by unfold modPwr; rfl
@[simp] theorem modPwr_ports (f : Power → Power) : (modPwr d f).ports = d.ports := by unfold modPwr; rfl
@[simp] theorem modPwr_msp (f : Power → Power) : (modPwr d f).msp = d.msp := by unfold modPwr; rfl
@[simp] theorem modPwr_tb (f : Power → Power) : (modPwr d f).tb = d.tb := by unfold modPwr; rfl
@[simp] theorem modPwr_xc (f : Power → Power) : (modPwr d f).xc = d.xc := by unfold modPwr; rfl
@[simp] theorem modPwr_sl (f : Power → Power) : (modPwr d f).sl = d.sl := by unfold modPwr; rfl
@[simp] theorem modPwr_pwr (f : Power → Power) : (modPwr d f).pwr = f d.pwr := by unfold modPwr; rfl
@[simp] theorem modPwr_folio (f : Power → Power) : (modPwr d f).folio = d.folio := by unfold modPwr; rfl
@[simp] theorem modPwr_led (f : Power → Power) : (modPwr d f).led = d.led := by unfold modPwr; rfl
@[simp] theorem modPwr_cat (f : Power → Power) : (modPwr d f).cat = d.cat := by unfold modPwr; rfl
@[simp] theorem modPwr_thm (f : Power → Power) : (modPwr d f).thm = d.thm := by unfold modPwr; rfl
@[simp] theorem modPwr_sec (f : Power → Power) : (modPwr d f).sec = d.sec := by unfold modPwr; rfl
@[simp] theorem modPwr_chans (f : Power → Power) : (modPwr d f).chans = d.chans := by unfold modPwr; rfl
@[simp] theorem modPwr_banks (f : Power → Power) : (modPwr d f).banks = d.banks := by unfold modPwr; rfl
@[simp] theorem modPwr_gtPulse (f : Power → Power) : (modPwr d f).gtPulse = d.gtPulse := by unfold modPwr; rfl
@[simp] theorem modPwr_gtRemote (f : Power → Power) : (modPwr d f).gtRemote = d.gtRemote := by unfold modPwr; rfl
@[simp] theorem modPwr_trigOut (f : Power → Power) : (modPwr d f).trigOut = d.trigOut := by unfold modPwr; rfl
@[simp] theorem modPwr_free (f : Power → Power) : (modPwr d f).free = d.free := by unfold modPwr; rfl

/-! ### The `led` field changed -/

@[simp] theorem modLed_regs (f : LedgerSt → LedgerSt) : (modLed d f).regs = d.regs := by unfold modLed; rfl
@[simp] theorem modLed_unlocked (f : LedgerSt → LedgerSt) : (modLed d f).unlocked = d.unlocked := by unfold modLed; rfl
@[simp] theorem modLed_seen (f : LedgerSt → LedgerSt) : (modLed d f).seen = d.seen := by unfold modLed; rfl
@[simp] theorem modLed_advanced (f : LedgerSt → LedgerSt) : (modLed d f).advanced = d.advanced := by unfold modLed; rfl
@[simp] theorem modLed_written (f : LedgerSt → LedgerSt) : (modLed d f).written = d.written := by unfold modLed; rfl
@[simp] theorem modLed_live (f : LedgerSt → LedgerSt) : (modLed d f).live = d.live := by unfold modLed; rfl
@[simp] theorem modLed_mirror (f : LedgerSt → LedgerSt) : (modLed d f).mirror = d.mirror := by unfold modLed; rfl
@[simp] theorem modLed_ports (f : LedgerSt → LedgerSt) : (modLed d f).ports = d.ports := by unfold modLed; rfl
@[simp] theorem modLed_msp (f : LedgerSt → LedgerSt) : (modLed d f).msp = d.msp := by unfold modLed; rfl
@[simp] theorem modLed_tb (f : LedgerSt → LedgerSt) : (modLed d f).tb = d.tb := by unfold modLed; rfl
@[simp] theorem modLed_xc (f : LedgerSt → LedgerSt) : (modLed d f).xc = d.xc := by unfold modLed; rfl
@[simp] theorem modLed_sl (f : LedgerSt → LedgerSt) : (modLed d f).sl = d.sl := by unfold modLed; rfl
@[simp] theorem modLed_pwr (f : LedgerSt → LedgerSt) : (modLed d f).pwr = d.pwr := by unfold modLed; rfl
@[simp] theorem modLed_folio (f : LedgerSt → LedgerSt) : (modLed d f).folio = d.folio := by unfold modLed; rfl
@[simp] theorem modLed_led (f : LedgerSt → LedgerSt) : (modLed d f).led = f d.led := by unfold modLed; rfl
@[simp] theorem modLed_cat (f : LedgerSt → LedgerSt) : (modLed d f).cat = d.cat := by unfold modLed; rfl
@[simp] theorem modLed_thm (f : LedgerSt → LedgerSt) : (modLed d f).thm = d.thm := by unfold modLed; rfl
@[simp] theorem modLed_sec (f : LedgerSt → LedgerSt) : (modLed d f).sec = d.sec := by unfold modLed; rfl
@[simp] theorem modLed_chans (f : LedgerSt → LedgerSt) : (modLed d f).chans = d.chans := by unfold modLed; rfl
@[simp] theorem modLed_banks (f : LedgerSt → LedgerSt) : (modLed d f).banks = d.banks := by unfold modLed; rfl
@[simp] theorem modLed_gtPulse (f : LedgerSt → LedgerSt) : (modLed d f).gtPulse = d.gtPulse := by unfold modLed; rfl
@[simp] theorem modLed_gtRemote (f : LedgerSt → LedgerSt) : (modLed d f).gtRemote = d.gtRemote := by unfold modLed; rfl
@[simp] theorem modLed_trigOut (f : LedgerSt → LedgerSt) : (modLed d f).trigOut = d.trigOut := by unfold modLed; rfl
@[simp] theorem modLed_free (f : LedgerSt → LedgerSt) : (modLed d f).free = d.free := by unfold modLed; rfl

/-! ### The `sec` field changed -/

@[simp] theorem modSec_regs (f : SecSt → SecSt) : (modSec d f).regs = d.regs := by unfold modSec; rfl
@[simp] theorem modSec_unlocked (f : SecSt → SecSt) : (modSec d f).unlocked = d.unlocked := by unfold modSec; rfl
@[simp] theorem modSec_seen (f : SecSt → SecSt) : (modSec d f).seen = d.seen := by unfold modSec; rfl
@[simp] theorem modSec_advanced (f : SecSt → SecSt) : (modSec d f).advanced = d.advanced := by unfold modSec; rfl
@[simp] theorem modSec_written (f : SecSt → SecSt) : (modSec d f).written = d.written := by unfold modSec; rfl
@[simp] theorem modSec_live (f : SecSt → SecSt) : (modSec d f).live = d.live := by unfold modSec; rfl
@[simp] theorem modSec_mirror (f : SecSt → SecSt) : (modSec d f).mirror = d.mirror := by unfold modSec; rfl
@[simp] theorem modSec_ports (f : SecSt → SecSt) : (modSec d f).ports = d.ports := by unfold modSec; rfl
@[simp] theorem modSec_msp (f : SecSt → SecSt) : (modSec d f).msp = d.msp := by unfold modSec; rfl
@[simp] theorem modSec_tb (f : SecSt → SecSt) : (modSec d f).tb = d.tb := by unfold modSec; rfl
@[simp] theorem modSec_xc (f : SecSt → SecSt) : (modSec d f).xc = d.xc := by unfold modSec; rfl
@[simp] theorem modSec_sl (f : SecSt → SecSt) : (modSec d f).sl = d.sl := by unfold modSec; rfl
@[simp] theorem modSec_pwr (f : SecSt → SecSt) : (modSec d f).pwr = d.pwr := by unfold modSec; rfl
@[simp] theorem modSec_folio (f : SecSt → SecSt) : (modSec d f).folio = d.folio := by unfold modSec; rfl
@[simp] theorem modSec_led (f : SecSt → SecSt) : (modSec d f).led = d.led := by unfold modSec; rfl
@[simp] theorem modSec_cat (f : SecSt → SecSt) : (modSec d f).cat = d.cat := by unfold modSec; rfl
@[simp] theorem modSec_thm (f : SecSt → SecSt) : (modSec d f).thm = d.thm := by unfold modSec; rfl
@[simp] theorem modSec_sec (f : SecSt → SecSt) : (modSec d f).sec = f d.sec := by unfold modSec; rfl
@[simp] theorem modSec_chans (f : SecSt → SecSt) : (modSec d f).chans = d.chans := by unfold modSec; rfl
@[simp] theorem modSec_banks (f : SecSt → SecSt) : (modSec d f).banks = d.banks := by unfold modSec; rfl
@[simp] theorem modSec_gtPulse (f : SecSt → SecSt) : (modSec d f).gtPulse = d.gtPulse := by unfold modSec; rfl
@[simp] theorem modSec_gtRemote (f : SecSt → SecSt) : (modSec d f).gtRemote = d.gtRemote := by unfold modSec; rfl
@[simp] theorem modSec_trigOut (f : SecSt → SecSt) : (modSec d f).trigOut = d.trigOut := by unfold modSec; rfl
@[simp] theorem modSec_free (f : SecSt → SecSt) : (modSec d f).free = d.free := by unfold modSec; rfl

/-! ### The `cat` field changed -/

@[simp] theorem modCat_regs (f : CatSt → CatSt) : (modCat d f).regs = d.regs := by unfold modCat; rfl
@[simp] theorem modCat_unlocked (f : CatSt → CatSt) : (modCat d f).unlocked = d.unlocked := by unfold modCat; rfl
@[simp] theorem modCat_seen (f : CatSt → CatSt) : (modCat d f).seen = d.seen := by unfold modCat; rfl
@[simp] theorem modCat_advanced (f : CatSt → CatSt) : (modCat d f).advanced = d.advanced := by unfold modCat; rfl
@[simp] theorem modCat_written (f : CatSt → CatSt) : (modCat d f).written = d.written := by unfold modCat; rfl
@[simp] theorem modCat_live (f : CatSt → CatSt) : (modCat d f).live = d.live := by unfold modCat; rfl
@[simp] theorem modCat_mirror (f : CatSt → CatSt) : (modCat d f).mirror = d.mirror := by unfold modCat; rfl
@[simp] theorem modCat_ports (f : CatSt → CatSt) : (modCat d f).ports = d.ports := by unfold modCat; rfl
@[simp] theorem modCat_msp (f : CatSt → CatSt) : (modCat d f).msp = d.msp := by unfold modCat; rfl
@[simp] theorem modCat_tb (f : CatSt → CatSt) : (modCat d f).tb = d.tb := by unfold modCat; rfl
@[simp] theorem modCat_xc (f : CatSt → CatSt) : (modCat d f).xc = d.xc := by unfold modCat; rfl
@[simp] theorem modCat_sl (f : CatSt → CatSt) : (modCat d f).sl = d.sl := by unfold modCat; rfl
@[simp] theorem modCat_pwr (f : CatSt → CatSt) : (modCat d f).pwr = d.pwr := by unfold modCat; rfl
@[simp] theorem modCat_folio (f : CatSt → CatSt) : (modCat d f).folio = d.folio := by unfold modCat; rfl
@[simp] theorem modCat_led (f : CatSt → CatSt) : (modCat d f).led = d.led := by unfold modCat; rfl
@[simp] theorem modCat_cat (f : CatSt → CatSt) : (modCat d f).cat = f d.cat := by unfold modCat; rfl
@[simp] theorem modCat_thm (f : CatSt → CatSt) : (modCat d f).thm = d.thm := by unfold modCat; rfl
@[simp] theorem modCat_sec (f : CatSt → CatSt) : (modCat d f).sec = d.sec := by unfold modCat; rfl
@[simp] theorem modCat_chans (f : CatSt → CatSt) : (modCat d f).chans = d.chans := by unfold modCat; rfl
@[simp] theorem modCat_banks (f : CatSt → CatSt) : (modCat d f).banks = d.banks := by unfold modCat; rfl
@[simp] theorem modCat_gtPulse (f : CatSt → CatSt) : (modCat d f).gtPulse = d.gtPulse := by unfold modCat; rfl
@[simp] theorem modCat_gtRemote (f : CatSt → CatSt) : (modCat d f).gtRemote = d.gtRemote := by unfold modCat; rfl
@[simp] theorem modCat_trigOut (f : CatSt → CatSt) : (modCat d f).trigOut = d.trigOut := by unfold modCat; rfl
@[simp] theorem modCat_free (f : CatSt → CatSt) : (modCat d f).free = d.free := by unfold modCat; rfl

/-! ### The `thm` field changed -/

@[simp] theorem modThm_regs (f : ThmSt → ThmSt) : (modThm d f).regs = d.regs := by unfold modThm; rfl
@[simp] theorem modThm_unlocked (f : ThmSt → ThmSt) : (modThm d f).unlocked = d.unlocked := by unfold modThm; rfl
@[simp] theorem modThm_seen (f : ThmSt → ThmSt) : (modThm d f).seen = d.seen := by unfold modThm; rfl
@[simp] theorem modThm_advanced (f : ThmSt → ThmSt) : (modThm d f).advanced = d.advanced := by unfold modThm; rfl
@[simp] theorem modThm_written (f : ThmSt → ThmSt) : (modThm d f).written = d.written := by unfold modThm; rfl
@[simp] theorem modThm_live (f : ThmSt → ThmSt) : (modThm d f).live = d.live := by unfold modThm; rfl
@[simp] theorem modThm_mirror (f : ThmSt → ThmSt) : (modThm d f).mirror = d.mirror := by unfold modThm; rfl
@[simp] theorem modThm_ports (f : ThmSt → ThmSt) : (modThm d f).ports = d.ports := by unfold modThm; rfl
@[simp] theorem modThm_msp (f : ThmSt → ThmSt) : (modThm d f).msp = d.msp := by unfold modThm; rfl
@[simp] theorem modThm_tb (f : ThmSt → ThmSt) : (modThm d f).tb = d.tb := by unfold modThm; rfl
@[simp] theorem modThm_xc (f : ThmSt → ThmSt) : (modThm d f).xc = d.xc := by unfold modThm; rfl
@[simp] theorem modThm_sl (f : ThmSt → ThmSt) : (modThm d f).sl = d.sl := by unfold modThm; rfl
@[simp] theorem modThm_pwr (f : ThmSt → ThmSt) : (modThm d f).pwr = d.pwr := by unfold modThm; rfl
@[simp] theorem modThm_folio (f : ThmSt → ThmSt) : (modThm d f).folio = d.folio := by unfold modThm; rfl
@[simp] theorem modThm_led (f : ThmSt → ThmSt) : (modThm d f).led = d.led := by unfold modThm; rfl
@[simp] theorem modThm_cat (f : ThmSt → ThmSt) : (modThm d f).cat = d.cat := by unfold modThm; rfl
@[simp] theorem modThm_thm (f : ThmSt → ThmSt) : (modThm d f).thm = f d.thm := by unfold modThm; rfl
@[simp] theorem modThm_sec (f : ThmSt → ThmSt) : (modThm d f).sec = d.sec := by unfold modThm; rfl
@[simp] theorem modThm_chans (f : ThmSt → ThmSt) : (modThm d f).chans = d.chans := by unfold modThm; rfl
@[simp] theorem modThm_banks (f : ThmSt → ThmSt) : (modThm d f).banks = d.banks := by unfold modThm; rfl
@[simp] theorem modThm_gtPulse (f : ThmSt → ThmSt) : (modThm d f).gtPulse = d.gtPulse := by unfold modThm; rfl
@[simp] theorem modThm_gtRemote (f : ThmSt → ThmSt) : (modThm d f).gtRemote = d.gtRemote := by unfold modThm; rfl
@[simp] theorem modThm_trigOut (f : ThmSt → ThmSt) : (modThm d f).trigOut = d.trigOut := by unfold modThm; rfl
@[simp] theorem modThm_free (f : ThmSt → ThmSt) : (modThm d f).free = d.free := by unfold modThm; rfl

/-! ### The `msp` field changed -/

@[simp] theorem modMsp_regs (f : Msp → Msp) : (modMsp d f).regs = d.regs := by unfold modMsp; rfl
@[simp] theorem modMsp_unlocked (f : Msp → Msp) : (modMsp d f).unlocked = d.unlocked := by unfold modMsp; rfl
@[simp] theorem modMsp_seen (f : Msp → Msp) : (modMsp d f).seen = d.seen := by unfold modMsp; rfl
@[simp] theorem modMsp_advanced (f : Msp → Msp) : (modMsp d f).advanced = d.advanced := by unfold modMsp; rfl
@[simp] theorem modMsp_written (f : Msp → Msp) : (modMsp d f).written = d.written := by unfold modMsp; rfl
@[simp] theorem modMsp_live (f : Msp → Msp) : (modMsp d f).live = d.live := by unfold modMsp; rfl
@[simp] theorem modMsp_mirror (f : Msp → Msp) : (modMsp d f).mirror = d.mirror := by unfold modMsp; rfl
@[simp] theorem modMsp_ports (f : Msp → Msp) : (modMsp d f).ports = d.ports := by unfold modMsp; rfl
@[simp] theorem modMsp_msp (f : Msp → Msp) : (modMsp d f).msp = f d.msp := by unfold modMsp; rfl
@[simp] theorem modMsp_tb (f : Msp → Msp) : (modMsp d f).tb = d.tb := by unfold modMsp; rfl
@[simp] theorem modMsp_xc (f : Msp → Msp) : (modMsp d f).xc = d.xc := by unfold modMsp; rfl
@[simp] theorem modMsp_sl (f : Msp → Msp) : (modMsp d f).sl = d.sl := by unfold modMsp; rfl
@[simp] theorem modMsp_pwr (f : Msp → Msp) : (modMsp d f).pwr = d.pwr := by unfold modMsp; rfl
@[simp] theorem modMsp_folio (f : Msp → Msp) : (modMsp d f).folio = d.folio := by unfold modMsp; rfl
@[simp] theorem modMsp_led (f : Msp → Msp) : (modMsp d f).led = d.led := by unfold modMsp; rfl
@[simp] theorem modMsp_cat (f : Msp → Msp) : (modMsp d f).cat = d.cat := by unfold modMsp; rfl
@[simp] theorem modMsp_thm (f : Msp → Msp) : (modMsp d f).thm = d.thm := by unfold modMsp; rfl
@[simp] theorem modMsp_sec (f : Msp → Msp) : (modMsp d f).sec = d.sec := by unfold modMsp; rfl
@[simp] theorem modMsp_chans (f : Msp → Msp) : (modMsp d f).chans = d.chans := by unfold modMsp; rfl
@[simp] theorem modMsp_banks (f : Msp → Msp) : (modMsp d f).banks = d.banks := by unfold modMsp; rfl
@[simp] theorem modMsp_gtPulse (f : Msp → Msp) : (modMsp d f).gtPulse = d.gtPulse := by unfold modMsp; rfl
@[simp] theorem modMsp_gtRemote (f : Msp → Msp) : (modMsp d f).gtRemote = d.gtRemote := by unfold modMsp; rfl
@[simp] theorem modMsp_trigOut (f : Msp → Msp) : (modMsp d f).trigOut = d.trigOut := by unfold modMsp; rfl
@[simp] theorem modMsp_free (f : Msp → Msp) : (modMsp d f).free = d.free := by unfold modMsp; rfl

/-! ### Parts of channels and banks -/

theorem modForce_eq (c : Chan) (f : Force → Force) : modForce d c f = modCh d c fun k => { k with force := f k.force } := rfl
theorem modMeas_eq (c : Chan) (f : Meas → Meas) : modMeas d c f = modCh d c fun k => { k with meas := f k.meas } := rfl
theorem modMach_eq (c : Chan) (f : Mach → Mach) : modMach d c f = modCh d c fun k => { k with mach := f k.mach } := rfl
theorem modTim_eq (c : Chan) (f : Timing → Timing) : modTim d c f = modCh d c fun k => { k with tim := f k.tim } := rfl
theorem modCap_eq (c : Chan) (f : Capture → Capture) : modCap d c f = modCh d c fun k => { k with cap := f k.cap } := rfl
theorem modRot_eq (b : Bank) (f : Rotation → Rotation) : modRot d b f = modBk d b fun k => { k with rot := f k.rot } := rfl
theorem modSeq_eq (b : Bank) (f : Sequencer → Sequencer) : modSeq d b f = modBk d b fun k => { k with seq := f k.seq } := rfl

/-! ### Channels and banks -/

theorem vget_eq {α : Type} {n : Nat} (v : Vector α n) (i : Fin n) : v.get i = v[i.val] := rfl

@[simp] theorem ch_modCh_self (c : Chan) (f : ChanSt → ChanSt) : ch (modCh d c f) c = f (ch d c) := by
  simp only [ch, modCh, vget_eq, Vector.getElem_set_self]

theorem ch_modCh_ne (f : ChanSt → ChanSt) {c x : Chan} (h : x ≠ c) : ch (modCh d c f) x = ch d x := by
  have hv : c.val ≠ x.val := fun e => h (Fin.ext e.symm)
  simp only [ch, modCh, vget_eq, Vector.getElem_set, hv, if_false]

@[simp] theorem bk_modBk_self (b : Bank) (f : BankSt → BankSt) : bk (modBk d b f) b = f (bk d b) := by
  simp only [bk, modBk, vget_eq, Vector.getElem_set_self]

theorem bk_modBk_ne (f : BankSt → BankSt) {b x : Bank} (h : x ≠ b) : bk (modBk d b f) x = bk d x := by
  have hv : b.val ≠ x.val := fun e => h (Fin.ext e.symm)
  simp only [bk, modBk, vget_eq, Vector.getElem_set, hv, if_false]

@[simp] theorem ch_wr (k : Blk) (off : Nat) (v : Word) (c : Chan) : ch (wr d k off v) c = ch d c := rfl
@[simp] theorem bk_wr (k : Blk) (off : Nat) (v : Word) (b : Bank) : bk (wr d k off v) b = bk d b := rfl
@[simp] theorem ch_setFld (k : Blk) (off hi lo v : Nat) (c : Chan) : ch (setFld d k off hi lo v) c = ch d c := rfl
@[simp] theorem ch_setFlag (k : Blk) (off i : Nat) (b : Bool) (c : Chan) : ch (setFlag d k off i b) c = ch d c := rfl
@[simp] theorem ch_modBk (b : Bank) (f : BankSt → BankSt) (c : Chan) : ch (modBk d b f) c = ch d c := rfl
@[simp] theorem bk_modCh (c : Chan) (f : ChanSt → ChanSt) (b : Bank) : bk (modCh d c f) b = bk d b := rfl

/-! ### Registers -/

theorem blkIdx_lt (k : Blk) : blkIdx k < 266 := by
  cases k with
  | host h => cases h <;> decide
  | bank b x => have := b.isLt; cases x <;> simp only [blkIdx] <;> omega
  | chan c => have := c.isLt; simp only [blkIdx]; omega

/-- The number of a block names it. -/
theorem blkOfIdx_blkIdx (k : Blk) : blkOfIdx (blkIdx k) = k := by
  cases k with
  | host h => cases h <;> rfl
  | bank b x =>
    have hb := b.isLt
    have h (n : Nat) (hn : n < 8) : ¬(10 + 8 * b.val + n < 10) ∧ 10 + 8 * b.val + n < 74 ∧
        (10 + 8 * b.val + n - 10) / 8 % 8 = b.val ∧ (10 + 8 * b.val + n - 10) % 8 = n := by omega
    cases x
    · have e := h 0 (by omega); simp only [blkIdx, blkOfIdx, e, if_false, if_true]
    · have e := h 1 (by omega); simp only [blkIdx, blkOfIdx, e, if_false, if_true]
    · have e := h 2 (by omega); simp only [blkIdx, blkOfIdx, e, if_false, if_true]
    · have e := h 3 (by omega); simp only [blkIdx, blkOfIdx, e, if_false, if_true]
    · have e := h 4 (by omega); simp only [blkIdx, blkOfIdx, e, if_false, if_true]
    · have e := h 5 (by omega); simp only [blkIdx, blkOfIdx, e, if_false, if_true]
    · have e := h 6 (by omega); simp only [blkIdx, blkOfIdx, e, if_false, if_true]
    · have e := h 7 (by omega); simp only [blkIdx, blkOfIdx, e, if_false, if_true]
  | chan c =>
    have hc := c.isLt
    have h1 : ¬(74 + c.val < 10) := by omega
    have h2 : ¬(74 + c.val < 74) := by omega
    have h3 : (74 + c.val - 74) % 192 = c.val := by omega
    simp only [blkIdx, blkOfIdx, h1, h2, if_false, h3]

/-- Blocks with one number are one block. -/
theorem blkIdx_inj {k j : Blk} (h : blkIdx k = blkIdx j) : k = j := by
  rw [← blkOfIdx_blkIdx k, ← blkOfIdx_blkIdx j, h]

/-- Two registers share a key exactly when block and offset agree. -/
theorem regKey_eq_iff {k j : Blk} {o p : Nat} (ho : o < 0x4000) (hp : p < 0x4000) : regKey k o = regKey j p ↔ k = j ∧ o = p := by
  constructor
  · intro h
    simp only [regKey] at h
    exact ⟨blkIdx_inj (by omega), by omega⟩
  · rintro ⟨rfl, rfl⟩; rfl

@[simp] theorem rd_wr_self (k : Blk) (off : Nat) (v : Word) : rd (wr d k off v) k off = v := smGet_smSet_self _ _ _ _

theorem rd_wr_ne (v : Word) {k j : Blk} {o p : Nat} (h : regKey j p ≠ regKey k o) : rd (wr d k o v) j p = rd d j p :=
  smGet_smSet_ne _ _ _ h

@[simp] theorem rd_modCh (c : Chan) (f : ChanSt → ChanSt) (k : Blk) (off : Nat) : rd (modCh d c f) k off = rd d k off := rfl
@[simp] theorem rd_modBk (b : Bank) (f : BankSt → BankSt) (k : Blk) (off : Nat) : rd (modBk d b f) k off = rd d k off := rfl
@[simp] theorem rd_modTb (f : TimeBase → TimeBase) (k : Blk) (off : Nat) : rd (modTb d f) k off = rd d k off := rfl
@[simp] theorem rd_modXc (f : Crossing → Crossing) (k : Blk) (off : Nat) : rd (modXc d f) k off = rd d k off := rfl
@[simp] theorem rd_modSl (f : ShelfLink → ShelfLink) (k : Blk) (off : Nat) : rd (modSl d f) k off = rd d k off := rfl

end Sys2Proof.Machine
end

