-- ==== Sys2Proof/Laws/Autis.lean ====
section
/-! SUPPORT. The laws of Autis instructions: what an issued instruction does, and what writing an ALU result leaves. -/

namespace Sys2Proof.Machine
open Sys2Proof

/-- An instruction that its machine issues has, in its issue slot, the effect of its own definition, or the machine fault it names. -/
theorem issue_run {s : State} {c : Chan} {w : Nat} (h : Issues s c w) (is_ : Nat → Bool) (f : Dev → Nat → Issue) (hi : is_ w = true) :
    issue s.mem s.dev c is_ f =
      match f (issued s c w).dev w with | .error x => machineFault (issued s c w).dev c x | .ok d => d := by
  obtain ⟨h1, h2, h3, h4, h5⟩ := h
  have hp : pcWord s.mem s.dev c = w := h4
  unfold issue issued
  simp only [h1, h2, hp, hi, h5, Bool.not_true, Bool.or_true, Bool.or_self, Bool.false_eq_true, if_false, Nat.not_le.mpr h3, decide_false]
  all_goals rfl

theorem wReg_setW_self (m : Mach) (n : Nat) (v : Word) : wReg (setW m n v) n = v := by
  simp only [wReg, setW, vget_eq, Vector.getElem_set_self]

theorem wReg_setW_ne (m : Mach) (v : Word) {n k : Nat} (h : k % 16 ≠ n % 16) : wReg (setW m n v) k = wReg m k := by
  simp only [wReg, setW, vget_eq, Vector.getElem_set]
  rw [if_neg (by omega)]

theorem iw_lt (w hi lo : Nat) : iw w hi lo < 2 ^ (hi + 1 - lo) := Nat.mod_lt _ (Nat.two_pow_pos _)

theorem wPair_setPair (m : Mach) (n v : Nat) (_hv : v < 2 ^ 64) (_hn : n < 16) (_he : n % 2 = 0) : wPair (setPair m n v) n = v := by
  unfold wPair setPair
  rw [wReg_setW_self, wReg_setW_ne _ _ (by omega), wReg_setW_self]
  simp only [BitVec.toNat_ofNat]; omega

theorem modMach_congr (d : Dev) (c : Chan) {f g : Mach → Mach} (h : f (ch d c).mach = g (ch d c).mach) : modMach d c f = modMach d c g := by
  unfold ch at h
  unfold modMach modCh
  simp only [h]

/-- Writing an ALU result with `aluPut` leaves what R181 and R182 say. -/
theorem alu_leaves (s : State) (c : Chan) (w : Nat) (x : Alu) (sat wide : Bool) (carry overflow : Bool)
    (hw : x.width = if wide then 64 else 32) (hr : x.r < 2 ^ (if wide then 64 else 32)) (hd : wide = true → fD w % 2 = 0)
    (hc : x.c.getD (ch s.dev c).mach.c = carry) (hv : (match x.v with | some v => v || sat | none => (ch s.dev c).mach.v) = overflow) :
    AluLeaves s { s with dev := aluPut s.dev c w true x sat } c w wide x.r carry overflow := by
  have hD : fD w < 16 := iw_lt w 57 54
  have e2 : (ch ({ s with dev := aluPut s.dev c w true x sat } : State).dev c).mach =
      { (if x.width = 64 then setPair (ch s.dev c).mach (fD w) x.r else setW (ch s.dev c).mach (fD w) (BitVec.ofNat 32 x.r)) with
        z := aluZ x, n := aluN x, c := carry, v := overflow, pc := (ch s.dev c).mach.pc + 1 } := by
    subst hc hv
    simp only [aluPut, modMach_eq, ch_modCh_self, if_true]
    split <;> rfl
  refine ⟨?_, ?_, ?_⟩
  · refine ⟨(if x.width = 64 then setPair (ch s.dev c).mach (fD w) x.r else setW (ch s.dev c).mach (fD w) (BitVec.ofNat 32 x.r)).w, ?_⟩
    subst hc hv
    unfold withAlu aluPut
    congr 1
    apply modMach_congr
    have : aluN x = decide (2 ^ (if wide = true then 63 else 31) ≤ x.r) := by
      unfold aluN; rw [hw]; cases wide <;> rfl
    rw [← this]
    simp only [if_true]
    split <;> rfl
  · rw [e2]
    cases wide with
    | true =>
      simp only [if_true] at hw hr ⊢
      simp only [hw, if_true]
      have := wPair_setPair (ch s.dev c).mach (fD w) x.r hr hD (hd rfl)
      exact this
    | false =>
      simp only [Bool.false_eq_true, if_false] at hw hr ⊢
      simp only [hw, show (32 : Nat) = 64 ↔ False by decide, if_false]
      have := wReg_setW_self (ch s.dev c).mach (fD w) (BitVec.ofNat 32 x.r)
      have e : wReg (setW (ch s.dev c).mach (fD w) (BitVec.ofNat 32 x.r)) (fD w) = BitVec.ofNat 32 x.r := this
      exact (congrArg BitVec.toNat e).trans (by rw [BitVec.toNat_ofNat]; omega)
  · intro k hk h1 h2
    rw [e2]
    cases wide with
    | true =>
      simp only [if_true] at hw hr ⊢
      simp only [hw, if_true]
      have hd := hd rfl
      have h2 := h2 rfl
      show wReg (setPair (ch s.dev c).mach (fD w) x.r) k = _
      unfold setPair
      rw [wReg_setW_ne _ _ (by omega), wReg_setW_ne _ _ (by omega)]
    | false =>
      simp only [Bool.false_eq_true, if_false] at hw hr ⊢
      simp only [hw, show (32 : Nat) = 64 ↔ False by decide, if_false]
      show wReg (setW (ch s.dev c).mach (fD w) (BitVec.ofNat 32 x.r)) k = _
      rw [wReg_setW_ne _ _ (by omega)]
end Sys2Proof.Machine
end

