-- ==== Sys2Proof/Laws/Bank.lean ====
section
/-! SUPPORT. The laws of bank memory under the accesses: each keeps its canonical form, and which leave it alone. -/

namespace Sys2Proof.Machine

open Sys2Proof

theorem progWrite_wf (m : Mem) (d : Dev) (p : Port) (b : Bank) (i : Nat) (v : Word) (h : m.wf = true) : (progWrite m d p b i v).1.wf = true := by
  unfold progWrite
  dsimp only
  split
  · exact h
  · split
    · exact Mem.wf_write32 _ _ _ (Mem.wf_write32 _ _ _ h)
    · exact Mem.wf_write32 _ _ _ h

theorem memWrite_wf (m : Mem) (d : Dev) (p : Port) (b : Bank) (r o : Nat) (v : Word) (h : m.wf = true) : (memWrite m d p b r o v).1.wf = true := by
  unfold memWrite
  dsimp only
  split
  · split
    · exact h
    · exact progWrite_wf _ _ _ _ _ _ h
  · exact Mem.wf_write32 _ _ _ h
  · exact h
  · split
    · exact h
    · exact Mem.wf_write32 _ _ _ h

/-- A guarded write of a block other than DEV and SEC leaves bank memory alone. -/
theorem guarded_mem (m : Mem) (d : Dev) (p : Port) (k : Blk) (off al : Nat) (v : Word) (mask : Nat) (h1 : k ≠ bDEV) (h2 : k ≠ bSEC ∨ off = SEC_ARBCMT) :
    (guarded m d p k off al v mask).1 = m := by
  unfold guarded
  dsimp only
  split
  · exact absurd rfl h1
  · rcases h2 with h2 | h2
    · exact absurd rfl h2
    · rw [if_pos h2]
  · repeat' split
    all_goals rfl
  · rfl
  · rfl

/-- A register write to a row that is not guarded, or outside DEV and SEC, leaves bank memory alone. -/
theorem rowWrite_mem (m : Mem) (d : Dev) (p : Port) (k : Blk) (off al : Nat) (v : Word) (r : RegDef)
    (h : r.wk = 0 ∨ (k ≠ bDEV ∧ (k ≠ bSEC ∨ off = SEC_ARBCMT))) : (rowWrite m d p k off al v r).1 = m := by
  unfold rowWrite
  dsimp only
  repeat' split
  all_goals first | rfl | skip
  rcases h with h | h
  · exact absurd h (by assumption)
  · exact guarded_mem _ _ _ _ _ _ _ _ h.1 h.2

theorem guarded_wf (m : Mem) (d : Dev) (p : Port) (k : Blk) (off al : Nat) (v : Word) (mask : Nat) (h : m.wf = true) :
    (guarded m d p k off al v mask).1.wf = true := by
  unfold guarded
  dsimp only
  split
  · unfold devCtl; repeat' split
    all_goals first | exact h | rfl
  · unfold switchCmd switchTo
    dsimp only
    repeat' split
    all_goals first | exact h | rfl
  · repeat' split
    all_goals exact h
  · exact h
  · exact h

theorem rowWrite_wf (m : Mem) (d : Dev) (p : Port) (k : Blk) (off al : Nat) (v : Word) (r : RegDef) (h : m.wf = true) :
    (rowWrite m d p k off al v r).1.wf = true := by
  unfold rowWrite
  dsimp only
  repeat' split
  all_goals first | exact h | exact guarded_wf _ _ _ _ _ _ _ _ h

theorem regWrite_wf (m : Mem) (d : Dev) (p : Port) (k : Blk) (off al : Nat) (v : Word) (h : m.wf = true) : (regWrite m d p k off al v).1.wf = true := by
  unfold regWrite
  split
  · exact h
  · split
    · exact h
    · exact rowWrite_wf _ _ _ _ _ _ _ _ h

theorem directWrite_wf (m : Mem) (d : Dev) (p : Port) (w : Width) (a v : Word) (h : m.wf = true) : (directWrite m d p w a v).1.wf = true := by
  unfold directWrite
  dsimp only
  repeat' split
  all_goals first | exact h | exact regWrite_wf _ _ _ _ _ _ _ h | exact memWrite_wf _ _ _ _ _ _ _ h

/-- Every write of an address keeps the canonical form. -/
theorem busWrite_wf (m : Mem) (d : Dev) (p : Port) (w : Width) (a v : Word) (h : m.wf = true) : (busWrite m d p w a v).1.wf = true := by
  unfold busWrite
  dsimp only
  split
  · split
    · exact h
    · exact directWrite_wf _ _ _ _ _ _ h
  · exact directWrite_wf _ _ _ _ _ _ h

theorem portWrite_wf (p : Port) (w : Width) (a v : Word) (m : Mem) (d : Dev) (h : m.wf = true) : (portWrite p w a v m d).1.wf = true := by
  unfold portWrite
  split
  · exact busWrite_wf _ _ _ _ _ _ h
  · exact h

/-- A read through a port leaves bank memory alone. -/
theorem portRead_mem (p : Port) (w : Width) (a : Word) (m : Mem) (d : Dev) : (portRead p w a m d).1 = m := by
  unfold portRead
  split <;> rfl

theorem regWrite_mem (m : Mem) (d : Dev) (p : Port) (k : Blk) (off al : Nat) (v : Word)
    (h : (∀ r i, regAt k off = some (r, i) → r.wk = 0) ∨ (k ≠ bDEV ∧ (k ≠ bSEC ∨ off = SEC_ARBCMT))) : (regWrite m d p k off al v).1 = m := by
  unfold regWrite
  split
  · rfl
  · rename_i r i hr
    split
    · rfl
    · exact rowWrite_mem _ _ _ _ _ _ _ _ (h.imp (fun x => x _ _ hr) id)

/-- A write through a port to a register that is not guarded, or of a block other than DEV and SEC, leaves bank memory alone. -/
theorem portWrite_mem (p : Port) (a v : Word) (m : Mem) (d : Dev) (k : Blk) (off al : Nat) (hl : locate a = .reg k off al)
    (hx : k = bMSP → off ≠ MSP_XDATA) (h : (∀ r i, regAt k off = some (r, i) → r.wk = 0) ∨ (k ≠ bDEV ∧ (k ≠ bSEC ∨ off = SEC_ARBCMT))) :
    ∀ w, (portWrite p w a v m d).1 = m := by
  intro w
  have hx' : xdataOf (accessCycle d (portNo p).val) w a = none := by
    unfold xdataOf
    rw [hl]
    dsimp only
    rw [if_pos]
    by_cases hk : k = bMSP
    · exact .inr (.inl (hx hk))
    · exact .inl hk
  unfold portWrite busWrite
  dsimp only
  rw [hx']
  have hr : ∀ e, (regWrite m e p k off al v).1 = m := fun e => regWrite_mem _ _ _ _ _ _ _ h
  unfold directWrite
  rw [hl]
  dsimp only
  repeat' split
  all_goals first | rfl | exact hr _

theorem mspWrite_wf (m : Mem) (d : Dev) (a v : Word) (h : m.wf = true) : (mspWrite m d a v).2.1.wf = true := by
  unfold mspWrite
  split
  · exact h
  · exact busWrite_wf _ _ _ _ _ _ h

theorem frameWrites_wf (ai : Bool) (page : BitVec 24) (first : Nat) (l : List Word) :
    ∀ (idx : Nat) (m : Mem) (d : Dev) (st : Nat), m.wf = true → (frameWrites ai page first l idx m d st).2.1.wf = true := by
  induction l with
  | nil => intro idx m d st h; exact h
  | cons v r ih =>
    intro idx m d st h
    unfold frameWrites
    split
    · exact ih _ _ _ _ h
    · split
      · exact ih _ _ _ _ h
      · exact ih _ _ _ _ (mspWrite_wf _ _ _ _ h)

theorem doWriteFrame_wf (cmd : Byte) (data : List Word) (extra : Nat) (m : Mem) (d : Dev) (h : m.wf = true) :
    (doWriteFrame cmd data extra m d).1.wf = true := by
  unfold doWriteFrame
  dsimp only
  repeat' split
  all_goals first | exact h | exact frameWrites_wf _ _ _ _ _ _ _ _ h

theorem chainWrite_wf (high : Bool) (idx : Fin 64) (data : BitVec 24) (m : Mem) (d : Dev) (h : m.wf = true) :
    (chainWrite high idx data m d).2.1.wf = true := by
  unfold chainWrite
  repeat' split
  all_goals first | exact h | exact mspWrite_wf _ _ _ _ h

theorem doChainFrame_wf (di nbits : Nat) (late : Bool) (m : Mem) (d : Dev) (h : m.wf = true) :
    (doChainFrame di nbits late m d).1.wf = true := by
  unfold doChainFrame
  dsimp only
  repeat' split
  all_goals first | exact h | exact chainWrite_wf _ _ _ _ _ h

/-- A Shelf Link request keeps the canonical form when what it performs does. -/
theorem slServe_wf (q : Side) (f : SlFrame) (type : Nat) (cls : Fin 4) (quiet : Bool) (act : Mem → Dev → Mem × Dev × List Word)
    (m : Mem) (d : Dev) (ha : ∀ e, (act m e).1.wf = true) (h : m.wf = true) : (slServe q f type cls quiet act m d).1.wf = true := by
  unfold slServe
  dsimp only
  repeat' split
  all_goals first | exact h | exact ha _

theorem slWrite_wf (p : Port) (m : Mem) (d : Dev) (a v : Word) (h : m.wf = true) : (slWrite p m d a v).1.wf = true := by
  unfold slWrite
  split
  · exact h
  · exact busWrite_wf _ _ _ _ _ _ h

theorem burstWrites_wf (p : Port) (l : List Word) :
    ∀ (a : Word) (m : Mem) (d : Dev) (n : Nat), m.wf = true → (burstWrites p l a m d n).2.2.1.wf = true := by
  induction l with
  | nil => intro a m d n h; exact h
  | cons v r ih =>
    intro a m d n h
    unfold burstWrites
    dsimp only
    split
    · exact ih _ _ _ _ (slWrite_wf _ _ _ _ _ h)
    · exact slWrite_wf _ _ _ _ _ h

theorem memWrites_wf (p : Port) (l : List Word) :
    ∀ (a : Word) (m : Mem) (d : Dev) (st : Nat), m.wf = true → (memWrites p l a m d st).2.1.wf = true := by
  induction l with
  | nil => intro a m d st h; exact h
  | cons v r ih => intro a m d st h; exact ih _ _ _ _ (busWrite_wf _ _ _ _ _ _ h)

/-- An output of the capture decimator keeps the canonical form. -/
theorem capOutput_wf (m : Mem) (d : Dev) (c : Chan) (h : m.wf = true) : (capOutput m d c).1.wf = true := by
  have hw : ∀ (b : Bool) (a : Nat) (l : List Byte) (x y : Dev), (if b = true then (m.writeBytes a l, x) else (m, y)).1.wf = true := by
    intro b a l x y
    split
    · exact Mem.wf_writeBytes _ _ _ h
    · exact h
  unfold capOutput
  dsimp only
  split
  · exact hw _ _ _ _ _
  · exact h

theorem switchTo_wf (x : Fin 4) (m : Mem) (d : Dev) (h : m.wf = true) : (switchTo x m d).1.wf = true := by
  unfold switchTo
  split
  · exact h
  · rfl

/-! ### What commands do to bank memory -/

theorem regPutIf_wf (c : Dev → Bool) (p : Port) (k : Blk) (off : Nat) (v : Word) (m : Mem) (d : Dev) (h : m.wf = true) :
    (regPutIf c p k off v m d).1.wf = true := by
  unfold regPutIf
  split
  · exact portWrite_wf _ _ _ _ _ _ h
  · exact h

theorem portWriteIf_wf (c : Word → Bool) (p : Port) (w : Width) (a v : Word) (m : Mem) (d : Dev) (h : m.wf = true) :
    (portWriteIf c p w a v m d).1.wf = true := by
  unfold portWriteIf
  split
  · exact portWrite_wf _ _ _ _ _ _ h
  · exact h

theorem portReadIf_mem (c : Word → Bool) (p : Port) (a : Word) (m : Mem) (d : Dev) : (portReadIf c p a m d).1 = m := by
  unfold portReadIf
  split
  · exact portRead_mem _ _ _ _ _
  · rfl

theorem unmapped_wf (p : Port) (a : Word) (write : Bool) (v : Word) (m : Mem) (d : Dev) (h : m.wf = true) : (unmapped p a write v m d).1.wf = true := by
  unfold unmapped
  split
  · split
    · exact portWrite_wf _ _ _ _ _ _ h
    · rw [portRead_mem]; exact h
  · exact h

theorem doReadFrame_mem (cmd : Byte) (nbits late : Nat) (m : Mem) (d : Dev) : (doReadFrame cmd nbits late m d).1 = m := by
  unfold doReadFrame
  split <;> rfl

theorem pageWrite_wf (v : Word) (m : Mem) (d : Dev) (h : m.wf = true) : (pageWrite v m d).1.wf = true := by
  unfold pageWrite
  split
  · exact doChainFrame_wf _ _ _ _ _ h
  · exact doWriteFrame_wf _ _ _ _ _ h

theorem xdataAccess_wf (p : Port) (write : Bool) (v : Word) (m : Mem) (d : Dev) (h : m.wf = true) : (xdataAccess p write v m d).1.wf = true := by
  unfold xdataAccess
  split
  · exact portWrite_wf _ _ _ _ _ _ h
  · rw [portRead_mem]; exact h

/-- A crossing frame that is delivered keeps the canonical form. -/
theorem deliver_wf (toHost : Bool) (b : XBody) (m : Mem) (d : Dev) (h : m.wf = true) : (deliver toHost b m d).1.wf = true := by
  cases b
  case cmd p w a v =>
    show (cmdArrive p w a v m d).1.wf = true
    unfold cmdArrive
    dsimp only
    repeat' split
    all_goals first | exact h | exact busWrite_wf _ _ _ _ _ _ h
  all_goals exact h

theorem xDrain_wf (x : XHead) : ∀ (n : Nat) (m : Mem) (d : Dev), m.wf = true → (xDrain x n m d).1.wf = true := by
  intro n
  induction n with
  | zero => intro m d h; exact h
  | succ n ih =>
    intro m d h
    unfold xDrain
    dsimp only
    repeat' split
    all_goals first | exact h | exact ih _ _ h | exact ih _ _ (deliver_wf _ _ _ _ h)

theorem xPassed_wf (x : XHead) (m : Mem) (d : Dev) (h : m.wf = true) : (xPassed x m d).1.wf = true := by
  unfold xPassed
  dsimp only
  repeat' split
  all_goals first | exact h | exact xDrain_wf _ _ _ _ h

/-- A frame that arrives on lanes 1 to 3 keeps the canonical form, with the held frames it lets act. -/
theorem xArrive_wf (x : XHead) (b : XBody) (toHost : Bool) (m : Mem) (d : Dev) (h : m.wf = true) : (xArrive x b toHost m d).1.wf = true := by
  unfold xArrive
  dsimp only
  repeat' split
  all_goals
    first
    | exact h
    | exact xPassed_wf _ _ _ h
    | exact xPassed_wf _ _ _ (deliver_wf _ _ _ _ h)
    | exact xDrain_wf _ _ _ _ (deliver_wf _ _ _ _ h)

theorem doRegRd_mem (q : Side) (f : SlFrame) (m : Mem) (d : Dev) : (doRegRd q f m d).1 = m := by
  unfold doRegRd slServe
  dsimp only
  repeat' split
  all_goals rfl

theorem doRegWr_wf (q : Side) (f : SlFrame) (m : Mem) (d : Dev) (h : m.wf = true) : (doRegWr q f m d).1.wf = true := by
  refine slServe_wf _ _ _ _ _ _ _ _ (fun e => ?_) h
  dsimp only
  split
  · exact h
  · exact slWrite_wf _ _ _ _ _ h

theorem doRegBurst_wf (q : Side) (f : SlFrame) (m : Mem) (d : Dev) (h : m.wf = true) : (doRegBurst q f m d).1.wf = true := by
  refine slServe_wf _ _ _ _ _ _ _ _ (fun e => ?_) h
  dsimp only
  repeat' split
  all_goals first | exact h | exact burstWrites_wf _ _ _ _ _ _ h

theorem doMemRd_mem (q : Side) (f : SlFrame) (m : Mem) (d : Dev) : (doMemRd q f m d).1 = m := by
  unfold doMemRd slServe
  dsimp only
  repeat' split
  all_goals rfl

theorem doMemWr_wf (q : Side) (f : SlFrame) (m : Mem) (d : Dev) (h : m.wf = true) : (doMemWr q f m d).1.wf = true := by
  refine slServe_wf _ _ _ _ _ _ _ _ (fun e => ?_) h
  dsimp only
  repeat' split
  all_goals first | exact h | exact memWrites_wf _ _ _ _ _ _ h

theorem doSwitch_wf (q : Side) (f : SlFrame) (m : Mem) (d : Dev) (h : m.wf = true) : (doSwitch q f m d).1.wf = true := by
  unfold doSwitch
  dsimp only
  split
  · exact switchTo_wf _ _ _ h
  · exact h

theorem doHostStart_wf (role : Fin 4) (bootsel : Bool) (m : Mem) (d : Dev) (h : m.wf = true) : (doHostStart role bootsel m d).1.wf = true := by
  unfold doHostStart
  split
  · exact h
  · rfl

theorem doResetAssert_wf (long : Bool) (m : Mem) (d : Dev) (h : m.wf = true) : (doResetAssert long m d).1.wf = true := by
  unfold doResetAssert
  dsimp only
  repeat' split
  all_goals first | exact h | rfl

theorem doFieldPor_wf (m : Mem) (d : Dev) (h : m.wf = true) : (doFieldPor m d).1.wf = true := by
  unfold doFieldPor
  split
  · exact h
  · rfl

theorem doFieldRailLoss_wf (m : Mem) (d : Dev) (h : m.wf = true) : (doFieldRailLoss m d).1.wf = true := by
  unfold doFieldRailLoss
  split
  · exact h
  · rfl

theorem doCaptureOutput_wf (c : Chan) (t : TS) (m : Mem) (d : Dev) (h : m.wf = true) : (atFieldBoth t (doCaptureOutput c) m d).1.wf = true := by
  unfold atFieldBoth
  split
  · unfold doCaptureOutput
    split
    · exact capOutput_wf _ _ _ h
    · exact h
  · exact h

end Sys2Proof.Machine
end

