-- ==== Sys2Proof/Tests/Base.lean ====
section
/-! SUPPORT. Small states for the tests and the witnesses: a device that is up, a running Autis machine with one instruction, and Shelf Link and crossing frames. -/

namespace Sys2Proof.Tests

open Sys2Proof Sys2Proof.Machine

/-- Channel 0 and its neighbour, of bank 0. -/
abbrev c0 : Chan := 0
abbrev c1 : Chan := 1

/-- A device whose host supervisor runs and whose field side is up. -/
def upD : Dev := wr { pwr := { reset := false, started := true, frail := true, fup := true, coldStart := false } } bDEV DEV_STS 0x30000

/-- The state of that device with `f` applied. -/
def up (f : Dev → Dev) : State := { dev := f upD }

/-- A register written, for use in a chain. -/
def at_ (k : Blk) (off : Nat) (v : Word) (d : Dev) : Dev := wr d k off v

/-- The Autis machine of channel 0 changed. -/
def mach (f : Mach → Mach) (d : Dev) : Dev := modMach d c0 f

/-- The lock of a block open. -/
def openLock (k : Blk) (d : Dev) : Dev := { d with unlocked := blkIdx k :: d.unlocked }

/-- Bank 0's image slot 0, valid, at index 0 with one entry and 256 body words. -/
def image (d : Dev) : Dev := wr (wr d (.bank 0 .bk) BK_IMG_A 0x8000) (.bank 0 .bk) BK_IMG_B 0x10100

/-- A bank memory that holds one 64-bit word. -/
def mem64 (a w : Nat) : Mem := Mem.write32 (Mem.write32 [] a (BitVec.ofNat 32 w)) (a + 4) (BitVec.ofNat 32 (w / 2 ^ 32))

/-- The machine of channel 0 runs image slot 0, whose first body word is `w`. -/
def issuing (w : Nat) (f : Dev → Dev) : State :=
  { dev := f (image (mach (fun m => { m with st := .run, slot := some 0 }) upD)), mem := mem64 (bankMem 0 + 8 * 17) w }

/-- An Autis instruction word from its fields (R171). -/
def word (op d a b mod imm : Nat) : Nat := op * 2 ^ 58 + d * 2 ^ 54 + a * 2 ^ 50 + b * 2 ^ 46 + mod * 2 ^ 40 + imm

/-- Both Shelf Link ports locked. -/
def linked (d : Dev) : Dev := { d with sl := { d.sl with pu := { d.sl.pu with lock := true }, pd := { d.sl.pd with lock := true } } }

/-- A good Shelf Link frame of a type, addressed to every device (1) or, with `dst` 0, to one by its position (3), with a payload. -/
def frame (type : Fin 16) (dmode : Fin 4) (payload : List Word) : SlFrame :=
  { lseq := 0, vmaj := 3, vmin := 0, type := type, resp := false, cls := 1, ctrl := false, len := Fin.ofNat 2048 payload.length, dmode := dmode, dst := 0,
    src := 5, noaddr := false, hops := 0, seq := 1, tag := 7, payload := payload, crcOk := true }

/-- Time elapsed since reset, in taps. -/
def timeAt (n : Nat) (d : Dev) : Dev := { d with tb := { d.tb with mono := n } }

/-- The time base changed. -/
def tb (f : TimeBase → TimeBase) (d : Dev) : Dev := { d with tb := f d.tb }

/-- A step of channel 0 that has started. -/
def run0 : Step :=
  { kind := .rest, started := true, mode := 0, setpoint := 0, s0 := 0, setup := {}, startTs := 0, startMono := 0, q0 := 0, e0 := 0, cum0 := {},
    flags := 0, settled := false, ending := none, deferred := false, branch := none }

end Sys2Proof.Tests
end

