-- ==== Sys2Proof/Tests/Slice0.lean ====
section
/-! SUPPORT. Tests whose expected values are the worked examples and tables of the spec: ill-formed commands, and single commands on small states. -/

set_option Elab.async false

namespace Sys2Proof.Tests

open Sys2Proof Sys2Proof.Machine

/-- Whether a command answers a next state with a property. -/
def after (i : Instr) (s : State) (p : State → Bool) : Bool :=
  match exec i s with
  | .next t => p t
  | _ => false

/-- The state after a command that answers one. -/
def then_ (i : Instr) (s : State) : State :=
  match exec i s with
  | .next t => t
  | _ => s

/-! ### Well-formed and ill-formed commands -/

/-- A header of a frame of eight words. -/
def mkHead (ty : Fin 16) : XHead := { ty := ty, dir := 1, len := 8, seq := 0, lane := 0, toHost := false, crcOk := true }

/-- One well-formed command of each shape that a check looks at. -/
theorem test_well_formed : ([.fieldloss 0x9F, .timeEcho (mkHead 5) 0 0x9F, .mspWriteFrame 0x40 [0, 1] 31, .strm (mkHead 9) (List.replicate 8 0),
    .codeDensityDone 389 (List.replicate 192 0), .ocvRead 0 0 (List.replicate 24 0), .thermalModelUpdate (List.replicate 10 0),
    .sensorCheck (List.replicate 12 0), .calPhase1End 0 (List.replicate 4 ⟨0, 0, 0⟩) []] : List Instr).all Instr.wf = true := by decide +kernel

/-- R139: a tap field of 160 or more is no instant, in any place an instant stands. -/
theorem test_wf_refuses_bad_instants : ([.fieldloss 0xA0, .timeSync (frame 8 3 []) true 0x1FF, .timeFrameSend 0xFF] : List Instr).all (fun i => !i.wf) = true := by
  decide +kernel

/-- R61: 32 or more bits beyond the words of a write frame make a further word. -/
theorem test_wf_refuses_frame_bits : (Instr.mspWriteFrame 0x40 [] 32).wf = false := by decide +kernel
/-- R10: LEN counts the payload words. -/
theorem test_wf_refuses_stream_length : (Instr.strm (mkHead 4) [1]).wf = false := by decide +kernel
/-- R161: a line has 192 taps, each with its count of hits. -/
theorem test_wf_refuses_short_table : (Instr.codeDensityDone 0 (List.replicate 191 0)).wf = false := by decide +kernel
/-- R9, R286: an OCV read takes a bank's 24 channels. -/
theorem test_wf_refuses_short_ocv : (Instr.ocvRead 0 0 []).wf = false := by decide +kernel
/-- R367, R368: ten nodes, twelve sensors. -/
theorem test_wf_refuses_thermal_counts : (Instr.thermalModelUpdate (List.replicate 9 0)).wf = false ∧ (Instr.sensorCheck (List.replicate 13 0)).wf = false := by
  decide +kernel
/-- R364: a die has four banks. -/
theorem test_wf_refuses_calibration_readings : (Instr.calPhase1End 0 (List.replicate 5 ⟨0, 0, 0⟩) []).wf = false := by decide +kernel

/-! ### The table's words, the queue and the idle step -/

/-- No row of the table gives bits. -/
theorem test_no_word_spells_a_command : decodeTableWord 32 0 = none ∧ (State.reset.withFetchWord 32 0).pending = [] := by decide +kernel

/-- A command at the front is taken off the queue and acts: the lock of the TB block opens with 0x5AFE0192 (R6, worked example, step 1). -/
theorem test_step_takes_front :
    (match step { up id with pending := [.unlock .slU (regAddr bTB UNLOCK_OFF) 0x5AFE0192, .hbSend] } with
      | .next t => decide (t.pending = [.hbSend]) && lockOpen t.dev bTB
      | _ => false) = true := by decide +kernel

/-! ### Registers (chapter 1 and the register conventions) -/

/-- R6, worked example: with the lock open a write to a WK field stores and re-arms, and the next write stores nothing. -/
theorem test_wk_worked_example :
    let s1 := then_ (.unlock .slU (regAddr bXC UNLOCK_OFF) 0x5AFE0192) (up id)
    let s2 := then_ (.xcAutoWrite .slU 3) s1
    let s3 := then_ (.xcAutoWrite .slU 1) s2
    fld s2.dev bXC XC_AUTO 15 0 = 3 ∧ lockOpen s2.dev bXC = false ∧ fld s3.dev bXC XC_AUTO 15 0 = 3 := by decide +kernel

/-- R54, worked example: 0x2A000000 clears nothing at accession number 0x2B, and 0x2B000000 after a read clears DISCARD and CRCERR. -/
theorem test_write_back_worked_example :
    let s := up fun d => { at_ bXC XC_STS 0x2B000030 d with seen := [regKey bXC XC_STS] }
    after (.accessionWriteBack .slU (regAddr bXC XC_STS) 0x2A000000) s (fun t => rd t.dev bXC XC_STS == 0x2B000030) = true ∧
    after (.accessionWriteBack .slU (regAddr bXC XC_STS) 0x2B000000) s (fun t => rd t.dev bXC XC_STS == 0x2B000000) = true := by decide +kernel

/-- Worked example of the register index: 0x00000001 written to 0x02618000, the clear alias of CH_CTRL of CH5.17, clears EN and keeps MODE. -/
theorem test_clear_alias_address :
    locate 0x02618000 = .reg (.chan 137) CH_CTRL 2 ∧ locate 0x02420338 = .reg (.bank 5 .cap) (0x118 + 0x20 * 17) 0 ∧
    bankMem 5 + 0x2000000 + 0x1000 * 715 + 0x774 = 0x562CB774 := by decide +kernel

/-! ### The management serial port -/

/-- R63, worked example: the read frame 0xFE on page 0x00010F returns 0 and 0, and the next status byte is 0x90. -/
theorem test_read_frame_worked_example :
    after (.mspReadFrame 0xFE 64 0) (up fun d => { at_ bMSP MSP_CFG 0x20 d with msp := { page := 0x10F } })
      (fun t => (t.dev.msp.dout == [0, 0]) && (fld t.dev bMSP MSP_FSTAT 7 0 == 0x90)) = true := by decide +kernel

/-- R65, worked example: three chain frames set the page, stage 0 and write MSP_CFG = 0, which keeps WLEN and sets ACCERR. -/
theorem test_chain_frames_worked_example :
    let s1 := then_ (.mspChainFrame 0x3F000400 32 false) (up id)
    let s2 := then_ (.mspChainFrame 0x00000000 32 false) s1
    let s3 := then_ (.mspChainFrame 0x40000000 32 false) s2
    s1.dev.msp.page = 0x000400 ∧ s2.dev.msp.chainWr = some (0, 0) ∧ rd s3.dev bMSP MSP_CFG = 0x20 ∧ flag s3.dev bMSP ACC_STS 0 = true := by
  decide +kernel

/-! ### Autis (worked example of R183) -/

/-- LDI W2, 16,800,000 is 0x4480000001005900. -/
theorem test_ldi_worked_example :
    after (.ldi c0) (issuing 0x4480000001005900 id) (fun t => decide ((wReg (ch t.dev c0).mach 2).toNat = 16800000)) = true := by decide +kernel

/-- MULQ W3, W2, #0xF333 is 0x54C820000000F333 and leaves 0x00F3878D. -/
theorem test_mulq_worked_example :
    after (.mulq c0) (issuing 0x54C820000000F333 (mach fun m => setW m 2 16800000)) (fun t => wReg (ch t.dev c0).mach 3 == 0x00F3878D) = true := by
  decide +kernel

/-- UNTIL |I| LE 20,000,000 is 0x9440680001312D00: operand I, LE, with FORM and MAG. -/
theorem test_until_worked_example :
    let w := 0x9440680001312D00
    isOp0 0x25 false w = true ∧ fD w = 1 ∧ fB w = 1 ∧ fMod w 3 = true ∧ fMod w 5 = true ∧ fImmS w = 20000000 := by decide +kernel

/-- A command whose machine has another instruction in front of it changes nothing. -/
theorem test_other_instruction_waits : after (.add c0) (issuing 0x4480000001005900 id) (fun t => decide (wReg (ch t.dev c0).mach 2 = 0)) = true := by
  decide +kernel

/-! ### Time -/

/-- R150, worked example: t1 to t4 in taps are these instants. -/
theorem test_time_exchange_instants :
    tsTaps 0x0F424000 = 160000000 ∧ tsTaps 0x0F425B1A = 160004346 ∧ tsOfTaps 160004346 = 0x0F425B1A ∧
    tsDiff (tsOfTaps 160004346) (tsOfTaps 160000000) - tsDiff (tsOfTaps 160072192) (tsOfTaps 160068346) = 500 := by decide +kernel

/-- R141: TS differences are modular, so an instant just past the wrap lies after one just before it. -/
theorem test_ts_wraps : tsDiff 0 0xFFFFFFFFFFFFFF9F = 1 ∧ tsAdd 0xFFFFFFFFFFFFFF9F 1 = 0 := by decide +kernel

/-- Tap tables of lines 386 and 387 in which the taps used stand for their own fraction. -/
def ownTaps (d : Dev) : Dev :=
  tb (fun b => { b with taps := [0, 70, 120].map (fun j => (386 * 192 + j, BitVec.ofNat 8 j)) ++ [120, 130, 150, 155].map fun j => (387 * 192 + j, BitVec.ofNat 8 j) }) d

/-- An edge of system TDC `k` at a tap of a period, hit at the sampling edge that follows (R160). -/
def stamp (k : Fin 4) (period tap : Nat) (s : State) : State :=
  then_ (.systemTdcEdge k true ⟨BitVec.ofNat 64 ((period + (if tap = 0 then 0 else 1)) * 256), Fin.ofNat 192 ((160 - tap) % 160)⟩) s

/-- R166, worked example: the pairing of system TDC 3 in interval mode with start source 2. -/
theorem test_tdc_interval_example :
    let s := up fun d => at_ bTB (TB_SCFG + 0x60) 0x213 (ownTaps d)
    let s := stamp 3 120 10 (stamp 3 100 40 (stamp 2 100 40 s))
    let s := stamp 3 305 5 (stamp 2 300 0 (stamp 3 200 30 (stamp 2 200 90 s)))
    (s.dev.tb.sys.getD 3 {}).queue.map (fun e => (e.tag.toNat, e.intv)) = [(0x4E00, 0), (0x4C80, 0), (0x4D00, -60), (0x4C00, 805)] := by decide +kernel

/-! ### The ledger, faults and uncertainty -/

/-- R76 to R78, worked example: the soft edge seen at 3,072 taps wants 3,392 and the hard one 1,088; the dead times widen at once and narrow by one tap. -/
theorem test_dead_times_worked_example :
    let d := at_ (chBlk c0) CH_DT_TGT (256 + 64 * 65536) (at_ (chBlk c0) CH_DT_LIM (1024 + 10240 * 65536) upD)
    wantedDt d c0 (some 3072) 10240 = (3392, false) ∧ wantedDt d c0 none 10240 = (1088, false) ∧ nextDt 3392 10240 = 10239 ∧ nextDt 3120 1088 = 3120 := by
  decide +kernel

/-- R236, worked example: sample 500 falls from 12,000,800 through 12,000,000 to 11,400,000 with F = 255, and 0.8 µs of 4 µs is F = 51;
a fall of 3 units with 1 to the threshold floors to 85. -/
theorem test_trigger_fractions : fracOf 12000000 11400000 12000800 = 255 ∧ fracAt 81920 0 409600 = 51 ∧ fracOf 1 0 3 = 85 := by decide +kernel

/-- R26, worked examples: the location codes of a fast-pair element of CH137, of a stream FIFO and of a DRA stage of CH2.9. -/
theorem test_location_codes : locCode 3 5 17 2 6 0xA3 = 0x762818A3 ∧ locFD (48 + 9) 7 6 + 37 = 0x293C1825 ∧ locFA (48 + 9) 1 3 = 0x49240C00 := by
  decide +kernel

/-- R335, worked example: the DRA limit that has acted for 100 µs latches cause 0x8000_0103 over a corrected one. -/
theorem test_contained_over_corrected :
    let k : Blk := .chan 57
    let d := raise (ownCycle (raise upD k 0x010A 0x293C1825 0 0 false)) k 0x0103 0x49240C00 0 0 true
    rd d k FLT_CAUSE = 0x80000103 ∧ rd d k FLT_LOC = 0x49240C00 ∧ rd d k FLT_CNT = 1 ∧ readVal d .slU k FLT_STS = 0x02010007 := by decide +kernel

/-- R272, worked example: p = 2,520,000 with ETAC = 973 is 2,652,087 of bus power. -/
theorem test_bus_power_worked_example : ledBus 973 1024 2520000 = 2652087 ∧ ledBus 1024 1024 (-3500000) = -3500000 := by decide +kernel

/-- R272, worked examples: 6 A at 4.2 V is 2,520,000 and -8 A at 4.375 V is -3,500,000, in 10 µW. -/
theorem test_declared_power_worked_example : divAway (60000000 * 16800000) 400000000 = 2520000 ∧ divAway (-80000000 * 17500000) 400000000 = -3500000 := by
  decide +kernel

/-- R137, worked example: 121 units encode as 0x0079 and 14,000 as 0x1ED6. -/
theorem test_uncertainty_code_worked_example : encodeUnc 121 = 0x0079 ∧ encodeUnc 14000 = 0x1ED6 := by decide +kernel

end Sys2Proof.Tests
end

