-- ==== Sys2Proof/Tests/WitAutis.lean ====
section
/-! SUPPORT. Witnesses of the Autis statements: states and operands that meet the hypotheses of each clause. -/

set_option Elab.async false

namespace Sys2Proof.Tests

open Sys2Proof Sys2Proof.Machine

/-- The ALU statements: each operation issues and has no operand fault, with registers (MUL, ADD, SUB, CMP, MIN, MAX, ABS, AND, OR, XOR,
MOV, SHL, SHR) in 32 bits and in register pairs. -/
theorem witness_alu : ∀ op ∈ [0x10, 0x11, 0x12, 0x13, 0x14, 0x15, 0x16, 0x17, 0x18, 0x19, 0x1A, 0x1B, 0x1C, 0x1D, 0x1E],
    ∀ mod ∈ [0, 0x10], let w := word op 2 4 6 mod 1
    Issues (issuing w id) c0 w ∧ fOp w = op ∧ firstFault (aluFaults w true (fMod w 4)) = none ∧ firstFault (aluFaults w false (fMod w 4)) = none ∧
      firstFault (aluFaults w true (fMod w 4 || fMod w 0)) = none ∧ firstFault (aluFaults w true false) = none ∧ fD w % 2 = 0 := by
  unfold Issues; decide +kernel

/-- SHR in its arithmetic form, the second form of its clause. -/
theorem witness_shr : let w := word 0x1E 2 4 6 1 0
    Issues (issuing w id) c0 w ∧ fOp w = 0x1E ∧ fMod w 0 = true ∧ firstFault (aluFaults w false (fMod w 4)) = none := by
  unfold Issues; decide +kernel


/-- The jump and stack instructions, with register and immediate targets at the last offset of the body. -/
theorem witness_jumps :
    (∀ op ∈ [0x00, 0x01, 0x04, 0x06], ∀ mod ∈ [0, 0x20], let w := word op 0 1 0 mod 255; let s0 := issuing w id; let s := issued s0 c0 w;
      Issues s0 c0 w ∧ fOp w = op ∧ fImm w 15 0 < bodyLen s.dev c0 ∧ (wReg (ch s.dev c0).mach (fA w)).toNat % 65536 < bodyLen s.dev c0 ∧
        (ch s.dev c0).mach.calls.length < 8 ∧ (ch s.dev c0).mach.loops.length < 4) ∧
    (let w := word 0x06 0 0 0 0 0x100FF; let s0 := issuing w id; let s := issued s0 c0 w;
      Issues s0 c0 w ∧ fOp w = 0x06 ∧ fImm w 15 0 < bodyLen s.dev c0 ∧ 0 < fImm w 39 16 ∧ (ch s.dev c0).mach.loops.length < 4) ∧
    (∀ op ∈ [0x02, 0x03], ∀ b ∈ [6, 15], let w := word op 0 0 b 1 3; let s0 := issuing w id; let s := issued s0 c0 w;
      Issues s0 c0 w ∧ fOp w = op ∧ condExists (condCode w) = true ∧ 5 < condCode w ∧ fImm w 15 0 < bodyLen s.dev c0 ∧
        (ch s.dev c0).mach.provs = []) ∧
    (∀ op ∈ [0x05, 0x07], let w := word op 0 0 0 0 0; let s0 := issuing w (mach fun m => { m with calls := [3], loops := [(3, 1)] }); let s := issued s0 c0 w;
      Issues s0 c0 w ∧ fOp w = op ∧ (ch s.dev c0).mach.calls = 3 :: [] ∧ (ch s.dev c0).mach.loops = (3, 0 + 1) :: []) := by
  unfold Issues; decide +kernel

/-- A branch taken while a successor is provisional. -/
theorem witness_branch_provisional : ∀ op ∈ [0x02, 0x03], let w := word op 0 0 0 1 3;
    let p : Prov := { tick := ⟨0, 0, []⟩, seg := 0, pidx := 0, last := 0 }; let st : Step := { run0 with kind := .wave };
    let s0 := issuing w (mach fun m => { m with provs := [p], snap := { ev := 1 }, ev := 1, st := .step, step := some st }); let s := issued s0 c0 w;
    Issues s0 c0 w ∧ (ch s.dev c0).mach.step = some st ∧ st.started = true ∧ (ch s.dev c0).mach.provs = [p] ∧
      s.dev.tb.mono < p.tick.at_ + succLag ∧ st.startMono ≤ p.tick.at_ ∧ fImm w 15 0 < bodyLen s.dev c0 ∧ condExists (condCode w) = true ∧ 5 < condCode w ∧
      (condSnap (ch s.dev c0).mach.snap (condCode w) != fMod w 2) = true ∧ fOp w = op := by
  unfold Issues; decide +kernel

/-- The waits, HALT, FAULT and a reserved operation code. -/
theorem witness_waits :
    (∀ op ∈ [0x08, 0x09, 0x0B, 0x3F], ∀ mod ∈ [0, 1], let w := word op 0 2 0 mod 5; let s0 := issuing w id; let s := issued s0 c0 w;
      Issues s0 c0 w ∧ fOp w = op ∧ fA w % 2 = 0 ∧ tsValid (BitVec.ofNat 64 (wPair (ch s.dev c0).mach (fA w))) = true ∧
        tsValid (tsAdd (fieldNow s.dev) ((fImm w 39 0 * tapsPerUs : Nat) : Int)) = true) ∧
    (∀ op ∈ [0x08, 0x09], let w := word op 0 2 0 0 0; let s0 := issuing w (tb fun b => { b with now := 0x1000000, mono := 10485760 }); let s := issued s0 c0 w;
      Issues s0 c0 w ∧ fOp w = op ∧ fA w % 2 = 0 ∧ 0 < ltOf s.dev (fieldNow s.dev) ∧ tsDiff 0 (fieldNow s.dev) < 0 ∧
        10240 ≤ tsDiff (fieldNow s.dev) 0 ∧ 10240 ≤ tsDiff (fieldNow s.dev) (tsOfTaps (ltInstant s.dev 0))) ∧
    (let w := word 0x0C 0 0 0 0 0; Issues (issuing w id) c0 w ∧ opReserved w = true) := by
  unfold Issues; decide +kernel

/-- The end of a wait: an instant that has come, in both forms. -/
theorem witness_wait_end : ∀ w ∈ [Wait.untilTime 0, Wait.untilLt 0], let s := up (mach fun m => { m with st := .wait, wait := w });
    let d := fieldAt s.dev 0;
    FieldCan s 0 ∧ onGrid d (fieldNow d) 64 = true ∧ (ch d c0).mach.st = .wait ∧
      ((ch d c0).mach.wait = .untilTime (0 : TS).toNat ∧ 0 ≤ tsDiff (fieldNow d) 0 ∨
        (ch d c0).mach.wait = .untilLt 0 ∧ 0 ≤ tsDiff (fieldNow d) (tsOfTaps (ltInstant d 0))) := by
  unfold FieldCan; decide +kernel

/-- SYNCG with a live and with a dead partner, its release and its timeout. -/
theorem witness_syncg :
    (let w := word 0x0A 0 0 0 0 3; let mask := fImm w 23 0 ||| 2 ^ c0.inBank;
      let live := issuing w fun d => modMach d c1 fun m => { m with st := .run };
      Issues live c0 w ∧ fOp w = 0x0A ∧ (∀ x ∈ maskChans c0.bank mask, x ≠ c0 → syncDead (issued live c0 w).dev x = false) ∧
        Issues (issuing w id) c0 w ∧ ∃ x ∈ maskChans c0.bank mask, x ≠ c0 ∧ syncDead (issued (issuing w id) c0 w).dev x = true) ∧
    (∀ dl : Option Nat, let s := up fun d => forEach [c0, c1] d fun d c => modMach d c fun m => { m with st := .wait, wait := .sync 3 (dl.map fun _ => 0) };
      let d := fieldAt s.dev 0;
      FieldCan s 0 ∧ (ch d c0).mach.wait = .sync 3 (dl.map fun _ => 0) ∧
        (∀ x ∈ maskChans c0.bank 3, syncDead d x = false ∧ syncWaits d x 3 = true ∧ (ch d x).mach.slotFrom ≤ d.tb.mono) ∧ onGrid d (fieldNow d) 64 = true ∧ 0 ≤ d.tb.mono) := by
  refine ⟨by unfold Issues; decide +kernel, fun dl => ?_⟩
  cases dl <;> (unfold FieldCan; dsimp only [Option.map]; decide +kernel)

/-- A machine with a complete set-up and shunts, whose register 1 holds 1. -/
def setUp (d : Dev) : Dev :=
  mach (fun m => setW { m with setup := { vmin := some 0, vmax := some 5000000, ilim := some 1000, plim := some 1000 } } 1 1) (at_ (chBlk c0) CH_SHUNT 1 d)

/-- The step instructions, each form at the last mode that its clause allows. -/
theorem witness_steps :
    (∀ mode ∈ [0, 3, 4], let w := word 0x20 0 1 0 (0x20 + mode) 0; let s0 := issuing w setUp; let s := issued s0 c0 w;
      Issues s0 c0 w ∧ fOp w = 0x20 ∧ fMods w 2 0 < 5 ∧ 0 < (val32 s.dev c0 w).toInt ∧
        driveFault s.dev c0 (.force (fMods w 2 0) (val32 s.dev c0 w).toInt) = none) ∧
    (let w := word 0x21 0 1 1 0x22 0; let s0 := issuing w setUp; let s := issued s0 c0 w; let dur := (wReg (ch s.dev c0).mach (fB w)).toNat;
      Issues s0 c0 w ∧ fOp w = 0x21 ∧ fMods w 2 0 < 3 ∧ 0 < dur ∧ driveFault s.dev c0 (.ramp (fMods w 2 0) (val32 s.dev c0 w).toInt dur) = none) ∧
    (∀ op ∈ [0x22, 0x23], let w := word op 0 0 0 0 0; let s0 := issuing w setUp; let s := issued s0 c0 w;
      Issues s0 c0 w ∧ fOp w = op ∧ driveFault s.dev c0 .hold = none) ∧
    (let w := word 0x3C 0 0 0 0 15; let s0 := issuing w fun d => at_ (.bank 0 .eis) (EIS_CFG0 + 0x80 * 15) 0x80000000 (setUp d); let s := issued s0 c0 w;
      Issues s0 c0 w ∧ fOp w = 0x3C ∧ fMod w 0 = false ∧ (15 : Fin 16).val = fImm w 3 0 ∧ bit (eisReg s.dev c0.bank 15 EIS_CFG0) 31 = true ∧
        driveFault s.dev c0 (.eis 15) = none) ∧
    (let w := word 0x3C 2 1 1 1 15; let s0 := issuing w fun d => at_ (.bank 0 .eis) (PLS_CFG + 0x20 * 15) 0x80000000 (setUp d); let s := issued s0 c0 w;
      Issues s0 c0 w ∧ fOp w = 0x3C ∧ fMod w 0 = true ∧ (15 : Fin 16).val = fImm w 3 0 ∧ fD w % 2 = 0 ∧
        bit (plsReg s.dev c0.bank 15 PLS_CFG) 31 = true ∧
        driveFault s.dev c0 (.pulse (fD w) (wReg (ch s.dev c0).mach (fA w)).toInt (wReg (ch s.dev c0).mach (fB w)).toNat 15) = none) := by
  unfold Issues; decide +kernel

/-- The set-up instructions: every limit, both forms of UNTIL, LEDGER and SEGM. -/
theorem witness_setup :
    (∀ k ∈ [0, 1, 2, 3, 4, 5], let w := word 0x24 0 2 0 k 0xFFFFFFFFFF; let s0 := issuing w id;
      Issues s0 c0 w ∧ fOp w = 0x24 ∧ fMods w 3 0 = k ∧ fA w % 2 = 0 ∧ fImm w 39 0 < 2 ^ 40) ∧
    (let w := word 0x25 0 0 3 3 0; let s0 := issuing w id; let s := issued s0 c0 w;
      Issues s0 c0 w ∧ fOp w = 0x25 ∧ (ch s.dev c0).mach.setup.untils.length < 8 ∧ fMod w 5 = false ∧ condExists (condCode w) = true ∧ 5 < condCode w) ∧
    (let w := word 0x25 11 2 3 0x30 0; let s0 := issuing w id; let s := issued s0 c0 w;
      Issues s0 c0 w ∧ fOp w = 0x25 ∧ (ch s.dev c0).mach.setup.untils.length < 8 ∧ fMod w 5 = true ∧ fD w < 12 ∧ fB w < 4 ∧ fMod w 4 = true ∧ fA w % 2 = 0) ∧
    (∀ op ∈ [0x26, 0x32], let w := word op 0 0 0 0 7; Issues (issuing w id) c0 w ∧ fOp w = op) := by
  unfold Issues; decide +kernel
end Sys2Proof.Tests
end

