-- ==== Sys2Proof/Tests/WitForce.lean ====
section
/-! SUPPORT. Witnesses of the statements about the force path, the measurement path, the reserve pair and line time. -/

set_option Elab.async false

namespace Sys2Proof.Tests

open Sys2Proof Sys2Proof.Machine

def force (f : Force → Force) (d : Dev) : Dev := modCh d c0 fun k => { k with force := f k.force }
def meas (f : Meas → Meas) (d : Dev) : Dev := modCh d c0 fun k => { k with meas := f k.meas }

/-- PWM: the first boundary and a later one, an edge in the period, and the losses of SWT at their counts. -/
theorem witness_pwm :
    (∀ q ∈ [none, some (0 : Nat)], ∀ n ∈ [0, 1], let x : TS := tsAdd 0 (-(n : Nat)); let p : Option TS := q.map fun _ => 0; let s := up (force fun k => { k with drive := .pwm, pend := [(x, 0)], perStart := p }); let d := fieldAt s.dev 0;
      FieldCan s 0 ∧ (ch d (leadOf d c0)).mach.tail = none ∧ (ch d c0).force.drive = .pwm ∧ isPwmBoundary d c0 (fieldNow d) = true ∧ (ch d c0).force.pend = [(x, 0)] ∧ (ch d c0).force.perStart = p ∧
        (ch d c0).force.dMeasBA = none ∧ (if n = 0 then x = fieldNow d else 0 < tsDiff (fieldNow d) x)) ∧
    (let s := up fun d => tb (fun k => { k with taps := [(192, 10)] }) (force (fun k => { k with perStart := some 0 }) d); let t : TS := 0x100;
      let d := doTapApply 1 t (fieldAt s.dev t); let st := tsAdd t (-10);
      FieldCan s t ∧ t.toNat % 256 = 0 ∧ hitStamp d 1 t 0 = some st ∧ (ch d c0).force.perStart = some 0 ∧ 0 ≤ tsDiff st 0 ∧ (ch d c0).force.dMeasBA = none) ∧
    draHigh (up fun d => at_ (chBlk c0) CH_DUTY 2000 (force (fun k => { k with drive := .pwm, perStart := some 0, perDt := (1000, 1000) }) d)).dev c0 (tsAdd 0 1000) = true ∧
    (∀ n ∈ [16, 256], let s := up (force fun k => { k with drive := .pwm, swtQuiet := n });
      (ch s.dev c0).force.drive = .pwm ∧ (ch s.dev c0).force.swtQuiet = n ∧ (ch s.dev c0).force.swtLost = false) := by
  unfold FieldCan; and_intros <;> decide +kernel

/-- The loop engine: a sample that is no update and one that is, the tick of each drive, and each of its limits. -/
theorem witness_loop :
    (let s := up id; let d := fieldAt s.dev 0; FieldCan s 0 ∧ (ch d (leadOf d c0)).mach.tail = none ∧ isUpdate d c0 (fieldNow d) = true ∧ (fieldNow d).toNat % 256 = 0 ∧ extPeriods d (fieldNow d) % 256 = 10 * c0.inBank ∧
      (ch d c0).force.trimAt = none) ∧
    (let s := up (at_ (chBlk c0) CH_LOOPCFG 6); let t : TS := 0x10000; let d := fieldAt s.dev t;
      FieldCan s t ∧ (ch d (leadOf d c0)).mach.tail = none ∧ (fieldNow d).toNat % 256 = 0 ∧ extPeriods d (fieldNow d) % 256 = 10 * c0.inBank ∧ isUpdate d c0 (fieldNow d) = false) ∧
    (let s := up fun d => at_ (chBlk c0) CH_STS 0x80000 (mach (fun m => { m with step := some run0 }) d); let d := fieldAt s.dev 0;
      FieldCan s 0 ∧ (ch d (leadOf d c0)).mach.tail = none ∧ (fieldNow d).toNat % 256 = 0 ∧ extPeriods d (fieldNow d) % 256 = 10 * c0.inBank ∧
        isUpdate d c0 (fieldNow d) = true ∧ leadOf d c0 = c0 ∧ (ch d c0).mach.step = some run0 ∧ run0.started = true ∧ run0.mode ≠ 4 ∧
        (ch d c0).mach.lead = [] ∧ flag d (chBlk c0) CH_STS 19 = true) ∧
    (∀ x ∈ [Drive.pwm, Drive.dac], let y : Update := ⟨0, 5, 5⟩; let z : Update := ⟨tsAdd 0 40960, 5, 5⟩; let t : TS := tsAdd 0 49152; let s := up (force fun k => { k with drive := x, upd := [y, z] }); let d := fieldAt s.dev t;
      FieldCan s t ∧ (ch d (leadOf d c0)).mach.tail = none ∧ (ch d c0).force.upd = [y, z] ∧ tsDiff (fieldNow d) z.tAt < 49152 ∧ tsDiff (fieldNow d) y.tAt = 49152 ∧ (ch d c0).force.drive = x) ∧
    (let s := up fun d => force (fun k => { k with vwRun := 10 }) (mach (fun m => { m with step := some run0 }) d);
      10 ≤ (ch s.dev c0).force.vwRun ∧ (ch s.dev c0).mach.step = some run0 ∧ run0.ending = none) ∧
    (let s := up fun d => timeAt (100 * tapsPerUs) (force (fun k => { k with drive := .dac, sclimAt := some 0 }) d); let d := fieldAt s.dev 0;
      FieldCan s 0 ∧ (ch d (leadOf d c0)).mach.tail = none ∧ (ch d c0).force.drive = .dac ∧ (ch d c0).force.sclimAt = some 0 ∧ 100 * tapsPerUs ≤ d.tb.mono - 0) := by
  unfold FieldCan; and_intros <;> decide +kernel

/-- A group that forms at the end of its bank, one that may not, one that dissolves, and a member that does not share. -/
theorem witness_groups :
    (let s := up id; let c : Chan := 16; let v : Word := 8;
      Serves s true (bankOf c .loop) (grpOff c) ∧ 2 ≤ bits v 3 0 ∧ bits v 3 0 ≤ 8 ∧ isFollower s.dev c = false ∧ grpMayForm s.dev c (bits v 3 0) = true ∧
        isFollower s.dev 17 = false ∧ grpMayForm s.dev 17 8 = false) ∧
    (let s := up fun d => timeAt (1000 * tapsPerUs) (force (fun k => { k with shareAt := some 0 }) (at_ (.bank 0 .loop) LOOP_GRP 2 (at_ (.bank 0 .loop) (LOOP_GRP + 4) 0 d)));
      let d := fieldAt s.dev 0;
      Serves s true (bankOf c0 .loop) (grpOff c0) ∧ bits (1 : Word) 3 0 ≤ 1 ∧ grpLeader s.dev c0 = some c0 ∧ flag s.dev (chBlk c0) CH_CTRL 0 = false ∧
        FieldCan s 0 ∧ (ch d (c0.bank.chan 0)).force.shareAt = some 0 ∧ grpLeader d (c0.bank.chan 0) = some c0 ∧ 1000 * tapsPerUs ≤ d.tb.mono - 0) := by
  unfold FieldCan Serves; and_intros <;> first | decide +kernel | (intro _ _; rfl)

/-- Bank enables that act and that are barred, a disable, the end of ENDLY, and an open bank fault. -/
theorem witness_banks :
    (let s := up id; Serves s true (.bank 7 .loop) LOOP_CTL ∧ bkenBarred s.dev 7 = false ∧ (bk s.dev 7).seq.bfltAt ≠ some (s.dev.tb.mono / 160) ∧
      bkenBarred (up (modPwr · fun k => { k with filk := false })).dev 7 = true) ∧
    (let x := { run0 with kind := .force 0 1 };
      let s := up fun d => modSeq (at_ (.bank 0 .loop) LOOP_FLTCFG 2 (at_ (chBlk c0) CH_STS 0 (at_ (.bank 0 .loop) LOOP_CTL 1 (mach (fun m => { m with step := some x }) d)))) 0 fun q => { q with endlyAt := some 0 };
      let t : TS := 0x200; let d := fieldAt s.dev t;
      flag s.dev (.bank 0 .loop) LOOP_CTL 0 = true ∧ FieldCan s t ∧ (bk d 0).seq.endlyAt = some 0 ∧ 0 ≤ d.tb.mono ∧ c0.bank = 0 ∧ (ch d c0).mach.step = some x ∧
        x.started = true ∧ stepDrives (ch d c0).mach x.kind = true ∧ x.kind ≠ .wave ∧ flag d (chBlk c0) CH_STS 18 = false ∧
        flag d (.bank 0 .loop) LOOP_STS 16 = false ∧ bkEn d 0 = true ∧ (bk d 0).seq.fltLow = none ∧
        (0 : TS).toNat / 256 + fld d (.bank 0 .loop) LOOP_FLTCFG 7 0 ≤ (fieldNow d).toNat / 256) := by
  unfold FieldCan Serves; and_intros <;> first | decide +kernel | (intro _ _; rfl)

/-- An enable that is granted, one that has a cause, and a disable. -/
theorem witness_channel_enable :
    (∀ x ∈ [((0x140000 : Word), (1 : Word), 0), (0, 0, 1)],
      let s := up fun d => at_ (.bank 0 .cmp) CMP_STS x.1 (at_ (.bank 0 .loop) LOOP_CTL x.2.1 d); let v : Word := 1;
      let e := forEach (members s.dev c0) (store (wakeBank (accessCycle s.dev (portNo .slU).val) c0.bank) .slU (chBlk c0) CH_CTRL 0 v 0x12 0x12) cmpValidate;
      portServes s.dev true (regAddr (chBlk c0) CH_CTRL) = true ∧ s.dev.pwr.fup = true ∧ s.dev.xc.up = true ∧ s.dev.cleared = [] ∧ isFollower s.dev c0 = false ∧ bit v 0 = true ∧ bit v 1 = flag s.dev (chBlk c0) CH_CTRL 1 ∧
        flag e (chBlk c0) CH_CTRL 0 = false ∧ enCause e c0 = x.2.2) ∧
    (let s := up (at_ (chBlk c0) CH_CTRL 1); Serves s true (chBlk c0) CH_CTRL ∧ isFollower s.dev c0 = false ∧ bit (0 : Word) 0 = false ∧
      flag s.dev (chBlk c0) CH_CTRL 0 = true) := by
  unfold Serves; and_intros <;> first | decide +kernel | (intro _ _; rfl)

/-- Modulator samples in L0 and L2, a filter that starts and one that has its outputs, a line integration that ends, a clear, an AUX slot, its result in both
uses, and a periodic record. -/
theorem witness_samples :
    (∀ x ∈ [0, 2], let s := up (at_ bLED LED_PSTATE (BitVec.ofNat 32 x)); let d := fieldAt s.dev 0;
      FieldCan s 0 ∧ onGrid d (fieldNow d) 64 = true ∧ (ch d c0).meas.modAt ≠ some d.tb.mono ∧ inSlot d c0 = false ∧ vLow < 0 ∧ 0 < vHigh ∧
        (ch d c0).meas.shuntNew = none ∧ (ch d c0).meas.serveNew = none ∧ (ch d c0).meas.posts = [] ∧ pstate d c0.bank = x ∧ qeDue d c0 = false) ∧
    (let s := up fun d => timeAt 1 (meas (fun k => { k with posts := [0] }) d); let d := fieldAt s.dev 0;
      FieldCan s 0 ∧ onGrid d (fieldNow d) 64 = true ∧ (ch d c0).meas.modAt ≠ some d.tb.mono ∧ (ch d c0).meas.posts = [0] ∧ 0 < d.tb.mono ∧
        (ch d c0).meas.serveNew = none ∧ (ch d c0).mach.segRec = none ∧ (ch d c0).mach.provs = []) ∧
    (let s := up id; let d := fieldAt s.dev 0; let w := filtWanted d c0;
      pstate d c0.bank ≠ 3 ∧ onGrid d (fieldNow d) (64 * w.1) = true ∧
        (let e := (ch (fieldAt (up (meas fun k => { k with filt := { k.filt with ratio := 1 } })).dev 0) c0).meas.filt; e.ratio ≠ w.1) ∧
        (let e := fieldAt (up (meas fun k => { k with filt := { k.filt with ratio := w.1, order := w.2, hist := [(0, 0, 0), (0, 0, 0), (0, 0, 0)] } })).dev 0;
          let k := (ch e c0).meas; filtWanted e c0 = w ∧ k.filt.ratio = w.1 ∧ k.filt.order = w.2 ∧ k.filt.hist.length = w.2 ∧
            (filtDiff w.2 (cicOf k.cicV w.2 :: k.filt.hist.map fun x => x.1)).isSome = true)) ∧
    (let x : LineInt := ⟨{}, 0, 0, 0, 0⟩; let s := up (meas fun k => { k with lineInt := some x, qeclr := some 0 }); let d := fieldAt s.dev 0;
      FieldCan s 0 ∧ (ch d c0).meas.lineInt = some x ∧ x.endK ≤ max d.tb.fl.cyc (cycleAt d (fieldNow d)) ∧ onGrid d (fieldNow d) 64 = true ∧ qeDue d c0 = true) ∧
    (∀ m ∈ [1, 2], let s := up (at_ (chBlk c0) CH_AUXCFG (BitVec.ofNat 32 m)); let d := fieldAt s.dev 0;
      FieldCan s 0 ∧ fld d (chBlk c0) CH_AUXCFG 1 0 = m ∧ pstate d c0.bank ≠ 3 ∧ onGrid d (fieldNow d) (max 1 (fld d (chBlk c0) CH_AUXCFG 15 8) * 64000000) = true ∧
        measHeld d c0 = false) ∧
    (∀ m ∈ [1, 2], let t : TS := tsAdd 0 51200000; let s := up fun d => meas (fun k => { k with auxFrom := some 0 }) (at_ (chBlk c0) CH_AUXCFG (BitVec.ofNat 32 m) d); let d := fieldAt s.dev t;
      FieldCan s t ∧ (ch d c0).meas.auxFrom = some 0 ∧ 500 * (tapsPerUs : Nat) ≤ tsDiff (fieldNow d) 0 ∧ fld d (chBlk c0) CH_AUXCFG 1 0 = m) ∧
    (let w : Word := 0x80000001; let s := up fun d => meas (fun k => { k with recSet := w }) (at_ (chBlk c0) CH_MREC w d); let d := fieldAt s.dev 0;
      FieldCan s 0 ∧ recBoundary d (ch d c0).meas.recSet (fieldNow d) = true ∧ bit (ch d c0).meas.recSet 30 = false ∧ pstate d c0.bank ≤ 1 ∧
        rd d (chBlk c0) CH_MREC = (ch d c0).meas.recSet ∧ spoolLevel d < 28352) ∧
    (Serves (up id) true (chBlk c0) CH_MCTL ∧ (ch (up id).dev c0).meas.qeclr = none) := by
  unfold FieldCan Serves; and_intros <;> first | decide +kernel | (intro _ _; rfl)

/-- Every phase of the rotation at the instant it may end. -/
theorem witness_rotation :
    (∀ x ∈ [(RsvPhase.idle, 0), (.settle, 100), (.shadow, 2000), (.shadow, 62000), (.offset, 4000), (.gain, 4000), (.check, 4000), (.reconn, 0),
        (.shadowBack, 2000), (.selfCal, 100), (.done, 0)],
      let s := up fun d => timeAt (msTaps (max x.2 20000)) (modRot d 0 fun r => { r with phase := x.1, since := msTaps (max x.2 20000) - msTaps x.2, passed := true });
      let d := fieldAt s.dev 0;
      FieldCan s 0 ∧ rotAt d 0 x.1 x.2 = true ∧ flag d (bRSV 0) RSV_CTL 0 = true ∧ onGrid d (fieldNow d) 64 = true ∧ measHeld d (turnChan d 0) = false ∧
        usesRef d 0 = false ∧ (turnChan d 0).bank = 0 ∧ (bk d 0).rot.passed = true ∧ fld d (bRSV 0) RSV_SUBST 4 0 = 31 ∧ msTaps 20000 ≤ d.tb.mono - (bk d 0).rot.turnAt ∧
        fld d (bRSV 0) RSV_STS 18 16 ≠ 5 ∧ shadowBad (shadowShow d 0 0 0) (turnChan d 0) 0 0 = false) ∧
    (let s := up fun d => timeAt (msTaps 62000) (modRot (modCh (at_ (bRSV 0) RSV_STS 0 d) c0 fun k => { k with cap := { k.cap with st := .armed } }) 0 fun r => { r with phase := .shadow });
      let d := fieldAt s.dev 0; rotAt d 0 .shadow 62000 = true ∧ measHeld d (turnChan d 0) = true ∧ (turnChan d 0).bank = 0) := by
  unfold FieldCan; and_intros <;> decide +kernel

/-- The wrap of TS, the announcement, a boundary with and without an announced cycle, an edge near a boundary and one far from any, and the loss of the line. -/
theorem witness_line_time :
    (let s := up fun d => { d with tb := { d.tb with now := BitVec.ofNat 64 (2 ^ 64 - 256) } }; s.dev.tb.now.toNat / 256 = 2 ^ 56 - 1) ∧
    (let s := up fun d => tb (fun k => { k with now := tsOfTaps (lineLenOf k.hl / 2 + 1) }) d; let t := s.dev.tb.now; let d := advance s.dev t;
      HostCan s t ∧ announcer d = true ∧ d.tb.hl.next = none ∧ d.tb.relock = none ∧ 0x8000 ≤ hostLt d d.tb.now % 65536 ∧ hostLt d d.tb.now / 65536 = d.tb.hl.cyc ∧
        followsLine d = true ∧ edgeCycle d (d.tb.hl.start + sinceStart d.tb.hl d.tb.now) = none) ∧
    (let s := up fun d => tb (fun k => { k with now := tsOfTaps (lineLenOf k.hl), hl := { k.hl with next := some ⟨1, lineLenOf k.hl, 5, false, false⟩ } }) d; let t := s.dev.tb.now; let d := advance s.dev t;
      HostCan s t ∧ 0 ≤ tsDiff d.tb.now (tsOfTaps (lineEndOf d.tb.hl)) ∧ d.tb.hl.next = some ⟨d.tb.hl.cyc + 1, d.tb.hl.start + lineLenOf d.tb.hl, 5, false, false⟩) ∧
    (let s := up fun d => at_ bSL SL_ROLE 1 (at_ bTB TB_STS 0x80000 (at_ bTB TB_CTL 3 (tb (fun k => { k with now := tsOfTaps (lineLenOf k.hl) }) d))); let t := s.dev.tb.now; let d := advance s.dev t;
      HostCan s t ∧ 0 ≤ tsDiff d.tb.now (tsOfTaps (lineEndOf d.tb.hl)) ∧ d.tb.hl.next = none ∧ announcer d = false) ∧
    (let s := up fun d => { d with tb := { d.tb with line := .locked, noEdge := 3 } }; let d := advance s.dev 0;
      HostCan s 0 ∧ followsLine d = true ∧ (edgeCycle d (d.tb.hl.start + sinceStart d.tb.hl d.tb.now)).isSome = true ∧ d.tb.line = .locked ∧ 3 ≤ d.tb.noEdge ∧ maskIn s.dev.cleared (regKey bTB TB_CTL) = 0 ∧
        portServes s.dev true (regAddr bTB (TB_CTL + 0x4000)) = true ∧ flag s.dev bTB TB_CTL 0 = false ∧ flag s.dev bTB TB_CTL 3 = false) := by
  unfold HostCan; and_intros <;> decide +kernel

end Sys2Proof.Tests
end

