-- ==== Sys2Proof/Tests/WitLink.lean ====
section
/-! SUPPORT. Witnesses of the statements about the ledger, resting banks, comparators, Shelf Link, images, Colophons, faults, the Folio, temperature, the Catalogue and the starts. -/

set_option Elab.async false

namespace Sys2Proof.Tests

open Sys2Proof Sys2Proof.Machine

/-- A request that has expired, a record that is due, and an override that is due. -/
theorem witness_ledger :
    (let r : LedReq := ⟨c0, 1, 1, 0, 0, 0, false⟩;
      let s := up fun d => { mach (fun m => { m with step := some { run0 with started := false } }) d with led := { d.led with expired := [r], due := some ⟨0, {}, 0, 0, 0, 0, 0⟩, overDue := true } };
      let d := fieldAt s.dev 0;
      FieldCan s 0 ∧ reqOf d.led.expired c0 = some r ∧ (ch d c0).mach.step.isSome = true ∧ d.led.due = some ⟨0, {}, 0, 0, 0, 0, 0⟩ ∧ spoolLevel d < 28352 ∧
        d.led.overDue = true ∧ Serves s true bLED LED_CTL) := by
  unfold FieldCan Serves; and_intros <;> first | decide +kernel | (intro _ _; rfl)

/-- A rest state that is entered, a planned wake, a wake cause, a resume that ends and an OCV read in L3. -/
theorem witness_rest :
    (let s := up fun d => at_ bLED LED_WAKE 15000 (modSeq d 0 fun q => { q with restHeld := true }); let d := fieldAt s.dev 0;
      FieldCan s 0 ∧ (bk d 0).seq.restHeld = true ∧ restCond d 0 = true ∧ (bk d 0).seq.wakeAt = none ∧ restChosen d 0 ≠ pstate d 0 ∧ restChosen d 0 ≠ 0 ∧
        0 ≤ sinceStart d.tb.fl (fieldNow d) ∧ sinceStart d.tb.fl (fieldNow d) < 10240) ∧
    (let x := { run0 with setup := { time := 10 } };
      let s := up fun d => at_ bLED LED_PSTATE 1 (modCh d c0 fun k => { k with mach := { k.mach with st := .step, step := some x }, cap := { k.cap with viols := [⟨⟨0, 0, 0⟩, false, 0⟩] } });
      let d := fieldAt s.dev 0; let y : Int := 10 * tapsPerUs;
      FieldCan s 0 ∧ y ∈ plannedAt s.mem d 0 ∧ (d.tb.mono : Int) ≤ y ∧ y ≤ d.tb.mono + (resumeUs (pstate d 0) * tapsPerUs : Nat) ∧ pstate d 0 ≠ 0 ∧
        (bk d 0).seq.wakeAt = none ∧ wakeCause d 0 = true) ∧
    (let s := up fun d => modSeq d 0 fun q => { q with wakeAt := some 0 }; let d := fieldAt s.dev 0; FieldCan s 0 ∧ (bk d 0).seq.wakeAt = some 0 ∧ 0 ≤ d.tb.mono) ∧
    (let s := up fun d => timeAt (msTaps 10000) (at_ bLED LED_PSTATE 3 d); let d := fieldAt s.dev 0;
      FieldCan s 0 ∧ pstate d 0 = 3 ∧ msTaps 10000 ≤ d.tb.mono - (bk d 0).seq.ocvAt ∧ vLow < 0 ∧ 0 < vHigh) := by
  unfold FieldCan; and_intros <;> decide +kernel

/-- A transition in continuous operation, a sampled decision, the release of FILK_N, self-checks with the channel disabled and enabled, and one that ends. -/
theorem witness_comparators :
    (let s := up fun d => at_ (.bank 0 .cmp) CMP_CTL 0 (at_ (.bank 0 .cmp) CMP_STS 0x100000 (at_ (.bank 0 .cmp) CMP_CFG 0x1081A d)); let d := fieldAt s.dev 0;
      FieldCan s 0 ∧ cmpCont d c0 = true ∧ inCheck d c0 = false ∧ cmpValid d c0 = true ∧ (ch d c0).cmp.onAt = none ∧
        flag d (bankOf c0 .cmp) (cmpOff CMP_STS c0) (16 + cmpNo .oc) ≠ true ∧ flag d (bankOf c0 .cmp) (cmpOff CMP_CFG c0) 4 = true ∧ canBe (fieldNow s.dev) 0 = true) ∧
    (let s := up (at_ (.bank 0 .cmp) CMP_CTL 1); let t : TS := tsAdd 0 (2 * tapsPerUs : Nat); let d := fieldAt s.dev t;
      FieldCan s t ∧ cmpCont d c0 = false ∧ inCheck d c0 = false ∧ isTick d c0.bank (tsAdd (fieldNow d) (-(2 * tapsPerUs : Nat))) = true) ∧
    (let s := up (at_ (chBlk c1) CH_CTRL 1); Serves s true (.bank 0 .cmp) CMP_SCHK ∧ (1 : BitVec 24) ≠ 0 ∧ (1 : BitVec 24).toNat.testBit c0.inBank = true ∧
      flag s.dev (chBlk (leadOf s.dev c0)) CH_CTRL 0 = false ∧ (2 : BitVec 24).toNat.testBit c1.inBank = true ∧ flag s.dev (chBlk (leadOf s.dev c1)) CH_CTRL 0 = true) ∧
    (let s := up fun d => timeAt (20 * tapsPerUs) (modBk d 0 fun k => { k with cmp := { k.cmp with schk := [(0, 1)] } }); let d := fieldAt s.dev 0;
      FieldCan s 0 ∧ (bk d 0).cmp.schk = [(0, 1)] ∧ 0 + 20 * tapsPerUs ≤ d.tb.mono) := by
  unfold FieldCan Serves; and_intros <;> first | decide +kernel | (intro _ _; rfl)

/-- The requests of Shelf Link at the last word of the waveform store, requests of no type, and a frame that goes on. -/
theorem witness_requests : let s := up linked; let n := regionSize 1 / 4 - 1; let a := wordN (waveAddr 7 n);
    (∀ x ∈ [(frame 1 1 [regAddr (.bank 0 .bk) BK_PSTS], 1), (frame 2 1 [a, 5], 2), (frame 3 1 [a, 0x80000001, 5], 3), (frame 4 1 [a, 1], 4),
        (frame 5 1 [a, 1, 5], 5), (frame 6 3 [], 6), (frame 0xA 3 [], 0xA), (frame 0xF 3 [], 0xF), (frame 0xE 3 [0, 0, 0, 0, 0, 0, 0, 0, 0], 0xE)],
      Asks s.dev .u x.1 x.2) ∧
    waveWords n 1 ∧ (regAt (.bank 0 .bk) BK_PSTS).isSome = true ∧ s.dev.pwr.fup = true ∧ s.dev.xc.up = true ∧ (portSt s.dev (portOf .u)).rd = none ∧
    bit (0x80000001 : Word) 31 = true ∧ bits (0x80000001 : Word) 8 0 = 1 ∧
    (let f := { frame 1 3 [0] with dst := 5 }; (slAccept s.dev .u f).1 = true ∧ slMine s.dev f = false ∧ ownEvent s.dev .u f = false ∧ slOut s.dev .u f = some .d) := by
  unfold Asks Arrives waveWords; and_intros <;> decide +kernel

/-- An ACK and a NAK of a frame with resends left, a replay timeout, and a trigger message of each kind. -/
theorem witness_replay_and_triggers :
    (let x : Sent := ⟨frame 1 1 [0], 14⟩; let s := up fun d => timeAt (20 * tapsPerUs) { d with sl := { d.sl with pu := { lock := true, replay := [x] } } }; let d := advance s.dev 0;
      fromLseq 0 (slPort s.dev .u).replay = some [x] ∧ (∀ y ∈ [x], y.resends < 15) ∧ HostCan s 0 ∧ (slPort d .u).lock = true ∧ (slPort d .u).replay ≠ [] ∧
        20 * tapsPerUs ≤ d.tb.mono - (slPort d .u).idleAt) ∧
    (∀ n ∈ [0, 1, 2, 3, 4], let m : TrigMsg := ⟨3, 0, Fin.ofNat 16 n, false, false, 0, 0, 0, 0, 0, true, false⟩;
      let s := up fun d => linked (modCh d c0 fun k => { k with cap := { k.cap with st := if n = 1 then .primed else .armed, group := 9 } });
      (trigOk s.dev .u m).1 = true ∧ m.kind.val = n ∧ (slPort s.dev (otherSide .u)).lock = true ∧ s.dev.xc.up = true ∧ s.dev.pwr.fup = true ∧
        (ch s.dev c0).cap.st = (if n = 1 then .primed else .armed) ∧ (ch s.dev c0).cap.group = 9 ∧ (ch s.dev c0).cap.slgrp = m.group.toNat) := by
  unfold HostCan; and_intros <;> decide +kernel

/-- Ports that train with a good and a bad version, announcements, their loss, a head with its ring written and not, an assignment, TOPO frames and the port commands. -/
theorem witness_ports :
    (let s := up fun d => timeAt (msTaps 100) { d with sl := { d.sl with pu := { lock := true } } }; let d := advance s.dev 0;
      s.dev.pwr.reset = false ∧ (slPort s.dev .d).lock = false ∧ flag s.dev bSL SL_CTL (sideNo .d) = true ∧ HostCan s 0 ∧ slAddr d = none ∧ isHead d = false ∧
        d.sl.pu.lock = true ∧ msTaps 100 ≤ d.tb.mono - d.sl.annAt ∧ (slPort d .u).lock = true ∧ (slPort d .u).lost = false) ∧
    (∀ w ∈ [true, false], let f := frame 0xB 1 [0, 1, 2];
      let s := up fun d => { linked (at_ bSL SL_ROLE 1 d) with written := if w then [regKey bSL SL_RING] else [] };
      isHead s.dev = true ∧ (slAccept s.dev .d f).1 = true ∧ f.type.val = 0xB ∧ bits (f.payload.getD 0 0) 31 28 = 0 ∧ ringWritten s.dev = w ∧
        (headPosition s.dev (f.hops.val + 1) 1 2).isSome = true ∧ s.dev.sl.heldAnn.length < 64 ∧ portServes s.dev true (regAddr bSL SL_RING) = true ∧ s.dev.cleared = []) ∧
    (let s := up linked; let f := frame 0xB 1 [0x10010040]; Arrives s.dev .u f ∧ f.type.val = 0xB ∧ bits (f.payload.getD 0 0) 31 28 = 1 ∧ slAddr s.dev = none) ∧
    (let s := up linked; let f := frame 0xC 1 [0x10000000]; (slAccept s.dev .u f).1 = true ∧ f.type.val = 0xC ∧ bits (f.payload.getD 0 0) 31 28 = 1 ∧ egress s.dev = .u ∧
      (slPort s.dev (otherSide .u)).lost = false) ∧
    (let s := up linked; let f := frame 0xC 2 [0x20000000]; (slAccept s.dev .u f).1 = true ∧ f.type.val = 0xC ∧ bits (f.payload.getD 0 0) 31 28 = 2 ∧ slOut s.dev .u f = none ∧
      (slPort s.dev (egress s.dev)).replay = []) ∧
    (let s := up linked; Serves s true bSL (SL_CTL + 0x8000) ∧ Serves s true bSL (SL_CTL + 0x4000) ∧ flag s.dev bSL SL_CTL (sideNo .u) = true ∧
      (slPort s.dev .u).lost = false) := by
  unfold HostCan Serves Arrives; and_intros <;> first | decide +kernel | (intro _ _; rfl)

/-- IMG requests of every OP, a SWITCH of each die that is performed, a VERIFY of a slot that fails, and ARB commits on either side of the limit. -/
theorem witness_images :
    (∀ op ∈ [0, 1, 2, 3], let s := up linked; let f := frame 0xD 1 [wordN (op * 0x10000000 + 3), 0, 5];
      AsksImage s.dev .u f op ∧ imgSlot f = 3 ∧ 0 + 4 * 1 ≤ slotSize (imgSlot f)) ∧
    (∀ i ∈ [1, 3], let s := up fun d => linked (at_ bSEC (secSlot (Fin.ofNat 4 i)) 0x20000000 d); let f := frame 0xD 1 [wordN (0x30000000 + i)];
      AsksImage s.dev .u f 3 ∧ switchResult s.dev (imgSlot f) = 0 ∧ (imgSlot f).val = i) ∧
    (let f := frame 0xD 1 [0x20000003]; let x : ImgSlot := { erased := true }; let d := { upD with sec := { upD.sec with slots := upD.sec.slots.set 3 x, verify := [(Side.u, f)] } };
      d.sec.verify.find? (fun x => imgSlot x.2 == 3) = some (.u, f) ∧ imageFail d 3 = some 4) ∧
    (let x : ImgSlot := { erased := true }; let d := wr { upD with sl := { upD.sl with restart := true }, sec := { upD.sec with slots := upD.sec.slots.set 1 x } } bSEC SEC_BOOT 0x10;
      d.sl.restart = true ∧ nextHost d = 1 ∧ imageFail d (nextHost d) = some 4 ∧ hostSlot d ≠ nextHost d) ∧
    (let s := up (openLock bSEC); Serves s true bSEC SEC_ARBCMT ∧ lockOpen s.dev bSEC = true ∧ bit (1 : Word) 0 = true) := by
  unfold AsksImage Arrives Serves; and_intros <;> first | decide +kernel | (intro _ _; rfl)

/-- An image verifies exactly when the opaque signature check and the digest of Config say so, in an image of good shape. -/
theorem witness_image_verifies (d : Dev) (i : Fin 4) (h0 : imageShape d i = true) (h1 : Config.signatureOk 0 (slotBytes d i 0 0x60) (slotBytes d i 0x60 64) = true)
    (h2 : Config.signatureOk 1 (slotBytes d i 0 0x60) (slotBytes d i 0xA0 3309) = true)
    (h3 : shaBytes (slotBytes d i 0x1000 (imageLen d i)) = imageDigest d i) (h4 : fld d bSEC SEC_ARB 5 0 ≤ imageArb d i) : imageFail d i = none := by
  unfold imageFail
  simp only [h0, h1, h2, h3]
  simp [Nat.not_lt.mpr h4]

/-- A report that waits, bodies with room in the store and with none, a resend that is due, and an acknowledgement. -/
theorem witness_colophons :
    (∀ n ∈ [207, 208], let b : Body := ⟨c0, []⟩; let x : ColoHeld := ⟨7, [], 0⟩; let f := frame 0xE 1 [0];
      let s := up fun d => timeAt (msTaps 1000) { d with sec := { d.sec with attests := [(Side.u, f)], bodies := [b], store := List.replicate n x } }; let d := advance s.dev 0;
      s.dev.sec.attests = (Side.u, f) :: [] ∧ supRuns s.dev = true ∧ s.dev.sec.bodies = b :: [] ∧ s.dev.sec.store.length = n ∧ HostCan s 0 ∧
        d.sec.store.find? (fun x => decide (x.seq = 7) && decide (x.sentAt + msTaps 1000 ≤ d.tb.mono)) = some x ∧ supRuns d = true) ∧
    Serves (up id) true bSEC SEC_CACK := by
  unfold HostCan Serves; and_intros <;> first | decide +kernel | (intro _ _; rfl)

/-- A contained cause of a channel of each kind, a bank fault, a reported cause of a bank block, and no fatal state. -/
theorem witness_causes :
    (∀ x ∈ [(0x0101, 1), (0x0101, 12), (0x0102, 0)], let z : CauseIn := ⟨chBlk c0, BitVec.ofNat 16 x.1, 0x3E00000, wordN x.2, 0, false⟩;
      locOk z.loc = true ∧
      causeBlk z.blk z.code.toNat = true ∧ faultClass z.code.toNat = 2 ∧ z.code.toNat = x.1 ∧ z.p0.toNat = x.2) ∧
    (causeBlk (.bank 0 .loop) 0x0201 = true) ∧
    (let k : Blk := .bank 0 .cap; let d := (up id).dev; causeBlk k 0x0501 = true ∧ faultClass 0x0501 = 1 ∧ fld d k FLT_STS 3 0 = 0 ∧ fld d k FLT_CAUSE 31 30 = 0 ∧ d.pwr.fatal = none) := by
  and_intros <;> decide +kernel

/-- A freeze, a thaw with and without a gap, the clears behind an open lock, the freeze timeout, a read of the window and a source that is enabled. -/
theorem witness_folio :
    (let s := up (openLock bFOL); Serves s true bFOL FOL_CTL ∧ s.dev.pwr.fatal = none ∧ bit (0x301 : Word) 0 = true ∧ bit (0x300 : Word) 0 = false ∧ bit (0x301 : Word) 8 = true ∧
      bit (0x301 : Word) 9 = true ∧ lockOpen s.dev bFOL = true ∧ s.dev.folio.frzAt = none) ∧
    (∀ n ∈ [0, 1], let s := up fun d => timeAt (1000000 * tapsPerUs) (at_ bFOL FOL_GAPCNT (wordN n) { d with folio := { d.folio with frzAt := some 0 } }); let d := advance s.dev 0;
      s.dev.folio.frzAt.isSome = true ∧ rd s.dev bFOL FOL_GAPCNT = wordN n ∧ HostCan s 0 ∧ d.folio.frzAt = some 0 ∧ 0 + 1000000 * tapsPerUs ≤ d.tb.mono) ∧
    (let s := up id; Serves s false bFOL (FOL_WIN + 0x1C) ∧ (portSt s.dev .slU).rd = none ∧ Serves s true bFOL (FOL_SRC + 4 * 63) ∧ bit (0x80000000 : Word) 31 = true ∧
      flag s.dev bFOL (FOL_SRC + 4 * 63) 31 = false) := by
  unfold HostCan Serves; and_intros <;> first | decide +kernel | (intro _ _; rfl)

/-- The thermal model, a sensor out of range, a readmission behind an open lock, the start of the model history and the scrub passes. -/
theorem witness_thermal :
    (let s := up (openLock bTHM); hostUp s.dev = true ∧ sensOk s.dev 11 = true ∧ Serves s true bTHM THM_SENSCTL ∧ lockOpen s.dev bTHM = true ∧ s.dev.pwr.fup = true ∧ supRuns s.dev = true ∧ locOk 0x3E00000 = true) ∧
    (let s := up (timeAt (60000000 * tapsPerUs)); let d := advance s.dev 0;
      HostCan s 0 ∧ flag d bTHM THM_STS 16 = false ∧ d.pwr.fup = true ∧ d.pwr.fieldUpAt + 60000000 * tapsPerUs ≤ d.tb.mono) := by
  unfold HostCan Serves; and_intros <;> first | decide +kernel | (intro _ _; rfl)

/-- A shunt write that is taken, one that is refused, one that ends, and a calibration with each result, and both of its phases. -/
theorem witness_catalogue :
    (∀ x ∈ [(0, 1), (1, 0), (0, 0)], let s := up fun d => openLock bCAT (at_ (chBlk 191) CH_CTRL (wordN x.1) (at_ bCAT CAT_SHR (wordN x.2) d)); let v : Word := 0x00BF0101;
      portServes s.dev true (regAddr bCAT CAT_SHCMD) = true ∧ s.dev.cleared = [] ∧ lockOpen s.dev bCAT = true ∧ shuntChan v = some 191 ∧ s.dev.cat.shWr = none ∧ bits v 1 0 = 1 ∧ bits (0x00BF0002 : Word) 1 0 = 2 ∧
        flag s.dev (chBlk 191) CH_CTRL 0 = decide (x.1 = 1) ∧ decide (rd s.dev bCAT CAT_SHR = 0) = decide (x.2 = 0)) ∧
    (let w : ShuntWrite := ⟨191, none⟩; let s := up fun d => { d with cat := { d.cat with shWr := some w } }; HostCan s 0 ∧ (advance s.dev 0).cat.shWr = some w) ∧
    (∀ x ∈ [(0, 20000000, 1), (1, 0, 0), (1, 20000000, 0)],
      let s := up fun d => openLock bCAT (at_ bCAT CAT_REFV (wordN x.2.1) (at_ bCAT CAT_REFI 80000000 (forEach [1, 2, 3] (at_ (.bank 0 .rsv) RSV_CTL 1 d) fun d b => at_ (.bank (Fin.ofNat 8 b) .rsv) RSV_CTL (wordN x.1) d)));
      portServes s.dev true (regAddr bCAT CAT_CALCMD) = true ∧ s.dev.cleared = [] ∧ lockOpen s.dev bCAT = true ∧ bits (1 : Word) 1 0 = 1 ∧ s.dev.cat.cal = none ∧
        decide ((calBanks s.dev 0).length < 2) = decide (x.2.2 = 1) ∧ refsOk s.dev 0 = decide (x.2.1 = 20000000)) ∧
    (let r : CalRun := ⟨0, 1, 0, [], []⟩; let s := up fun d => { openLock bCAT d with cat := { d.cat with cal := some r } };
      s.dev.cat.cal = some r ∧ bits (2 : Word) 1 0 = 2 ∧ hostUp s.dev = true ∧ lockOpen s.dev bCAT = true ∧ Serves s true bCAT CAT_CALCMD) := by
  unfold HostCan Serves; and_intros <;> first | decide +kernel | (intro _ _; rfl)

/-- The ends of the phases of a calibration: a pair off its certified values, one bank alone, two that disagree and two that agree, and all
channels cross-checked. -/
theorem witness_calibration :
    (∀ x ∈ [([0, 1], 20000000, 20000000, 0, false), ([0], 20000000, 20000000, 1, false), ([0, 1], 20000000, 20001000, 2, true), ([0, 1], 20000000, 20000000, 2, false)],
      let r : CalRun := ⟨0, 1, 0, x.1, []⟩;
      let s := up fun d => at_ bCAT CAT_REFV 20000000 (at_ bCAT CAT_REFI 80000000 (at_ (.bank 0 .rsv) RSV_CTL 1 (at_ (.bank 1 .rsv) RSV_CTL 1 { d with cat := { d.cat with cal := some r } })));
      let d := advance s.dev 0; let v : Int := if x.2.2.2.1 = 0 then 0 else 20000000;
      let first : List CalReading := [⟨0, v, 80000000⟩, ⟨1, v, 80000000⟩]; let refs : List CalReading := [⟨0, x.2.1, 80000000⟩, ⟨1, x.2.2.1, 80000000⟩];
      let act := (calStill d r).filter fun b => !calSuspended d b; let xs := act.filterMap fun b => refs.find? fun y => y.bank = b;
      let fs := act.filterMap fun b => first.find? fun y => y.bank = b;
      HostCan s 0 ∧ d.cat.cal = some r ∧ r.phase = 1 ∧ fs.any (readingOff d r.die) = decide (x.2.2.2.1 = 0) ∧ (calStill d r).any (calSuspended d) = false ∧
        act.length = x.1.length ∧ xs.length = act.length ∧ (apart 2 (xs.map fun y => y.v) || apart 5 (xs.map fun y => y.i)) = x.2.2.2.2) ∧
    (let r : CalRun := ⟨0, 2, 0, [0], List.range 24⟩; let s := up fun d => at_ (.bank 0 .rsv) RSV_CTL 1 { d with cat := { d.cat with cal := some r } };
      let d := advance s.dev 0; HostCan s 0 ∧ d.cat.cal = some r ∧ r.phase = 2 ∧ ∀ b ∈ calStill d r, ∀ c : Chan, c.bank = b → c.val ∈ r.seen) := by
  unfold HostCan; and_intros <;> decide +kernel

/-- The starts and resets: the state after reset, one that is up, one whose field rails fell, and FREBOOT with every bank disabled and one enabled. -/
theorem witness_starts :
    (State.reset.dev.pwr.reset = true ∧ State.reset.dev.pwr.frail = false ∧ State.reset.dev.pwr.fatal = none) ∧
    (let s := up (openLock bDEV); s.dev.pwr.reset = false ∧ s.dev.pwr.frail = true ∧ s.dev.xc.up = true ∧ Serves s true bDEV DEV_CTL ∧ lockOpen s.dev bDEV = true ∧
      bit (1 : Word) 0 = true ∧ anyBken s.dev = false ∧ anyBken (up (at_ (.bank 7 .loop) LOOP_CTL 1)).dev = true) ∧
    (let s := up fun d => modXc (modPwr d fun k => { k with fup := false }) fun k => { k with bootGood := true, bootSlot := some 3 }; let d := advance s.dev 0;
      HostCan s 0 ∧ supRuns d = true ∧ d.pwr.frail = true ∧ d.pwr.fup = false ∧ d.xc.bootGood = true ∧ d.xc.bootSlot = some 3 ∧ d.xc.up = true) := by
  unfold HostCan Serves; and_intros <;> first | decide +kernel | (intro _ _; rfl)

/-- A queue with a command at its front, and one that is empty, as after reset. -/
theorem witness_queue : ({ State.reset with pending := [Instr.chainNop] } : State).pending = Instr.chainNop :: [] ∧ State.reset.pending = [] ∧
    touchesMem .chainNop = false ∧ State.reset.mem.wf = true := by decide

end Sys2Proof.Tests
end

