-- ==== Sys2Proof/Tests/WitPorts.lean ====
section
/-! SUPPORT. Witnesses of the statements about ports, serial frames and the crossing. -/

set_option Elab.async false

namespace Sys2Proof.Tests

open Sys2Proof Sys2Proof.Machine

/-- The rows of TB_LINE_NOM, which holds any value, and of CMP_CFG, whose fields the enable bit guards. -/
def nomRow : RegDef := { off := 0x18, rst := 0xC350, rw := allBits }
def cmpRow : RegDef := { off := 0x100, stride := 0x20, count := 24, rst := 0x10818, rw := 0xFFC1E, cfg := 0xFFC1E }

/-- A plain write through each alias, and one that the governing enable bars. -/
theorem witness_plain_writes :
    (∀ al ∈ [0, 1, 2, 3], let s := up id;
      PlainWrite s .slU bTB TB_LINE_NOM al 7 nomRow ∧ portServes s.dev true (regAddr bTB (TB_LINE_NOM + 0x4000 * al)) = true ∧ TB_LINE_NOM % 4 = 0 ∧
        lateMask s.dev bTB TB_LINE_NOM nomRow.cfg = 0) ∧
    (let s := up fun d => at_ (.bank 0 .cmp) CMP_CTL 1 (at_ (.bank 0 .loop) LOOP_CTL 1 (at_ (chBlk c0) CH_CTRL 1 d)); let k : Blk := .bank 0 .cmp; let v : Word := 0x1081A;
      PlainWrite s .slU k CMP_CFG 0 v cmpRow ∧ portServes s.dev true (regAddr k CMP_CFG) = true ∧ s.dev.pwr.fup = true ∧ s.dev.xc.up = true ∧
        (asksFor s .slU k CMP_CFG 0 v cmpRow ^^^ rd s.dev k CMP_CFG) &&& BitVec.ofNat 32 (lateMask s.dev k CMP_CFG cmpRow.cfg) ≠ 0) := by
  unfold PlainWrite
  refine ⟨fun al h => ?_, ?_⟩
  · simp only [List.mem_cons, List.not_mem_nil, or_false] at h
    rcases h with h | h | h | h <;> subst h <;> dsimp only <;> and_intros <;> first | exact ⟨0, by decide +kernel⟩ | decide +kernel
  · dsimp only
    and_intros <;> first | exact ⟨0, by decide +kernel⟩ | decide +kernel
/-- The lock of a block behind the barrier, the write-back of a status register, and of FLT_STS with a stale number, an unread one and a match. -/
theorem witness_locks_and_status :
    Serves (up id) true (.bank 7 .tdc) UNLOCK_OFF ∧
    (∀ off ∈ [XC_STS, FLT_STS], ∀ x ∈ [((0x02000000 : Nat), true), (0x01000000, true), (0x02000000, false)],
      let s := up fun d => { at_ bXC off 0x0200000E d with seen := if x.2 then [regKey bXC off] else [] };
      portServes s.dev true (regAddr bXC off) = true ∧ off < 0x4000 ∧ off % 4 = 0 ∧ (regAt bXC off).map (fun r => decide (r.1.ra ≠ 0)) = some true ∧ off ≠ UNLOCK_OFF ∧
        decide (bits (wordN x.1) 31 24 = fld s.dev bXC off 31 24) = decide (x.1 = 0x02000000) ∧ s.dev.seen.contains (regKey bXC off) = x.2 ∧ liveOf s.dev bXC = []) :=
  ⟨⟨by decide +kernel, by decide +kernel, fun _ _ => rfl⟩, by decide +kernel⟩

/-- The low word of a register pair and of a program word, read and written. -/
theorem witness_low_words :
    (let s := up id; TB_TSSET_LO < 0x4000 ∧ TB_TSSET_LO % 4 = 0 ∧
      (regAt bTB TB_TSSET_LO).map (fun r => r.1.lo64 && decide (r.1.ra = 0) && decide (r.1.wk ≠ 0)) = some true ∧ TB_TSSET_LO ≠ UNLOCK_OFF ∧
      (portSt s.dev .slU).wr = none ∧ Serves s false bTB TB_TSSET_LO ∧ Serves s true bTB TB_TSSET_LO) ∧
    (let s := up id; let a := bankMem 7 + 8 * 65535;
      s.dev.pwr.fup = true ∧ s.dev.xc.up = true ∧ portServes s.dev false (BitVec.ofNat 32 a) = true ∧ portServes s.dev true (BitVec.ofNat 32 a) = true) := by
  and_intros <;> first | decide +kernel | (intro _ _; rfl)

/-- An address in no block, MSP_CFG, and MSP_XDATA with a plain target. -/
theorem witness_unmapped_and_msp :
    (let s := up id; locate 0x00F00000 = .none ∧ portServes s.dev true 0x00F00000 = true ∧ portServes s.dev false 0x00F00000 = true) ∧
    Serves (up id) true bMSP MSP_CFG ∧
    (let s := up (at_ bMSP MSP_XADDR (regAddr bTB TB_LINE_NOM)); Serves s true bMSP MSP_XDATA ∧ rd s.dev bMSP MSP_XADDR = regAddr bTB TB_LINE_NOM ∧
      PlainWrite s .slU bTB TB_LINE_NOM 0 7 nomRow ∧ lateMask s.dev bTB TB_LINE_NOM nomRow.cfg = 0) := by
  unfold PlainWrite
  dsimp only
  and_intros <;> first | exact ⟨0, by decide +kernel⟩ | decide +kernel | (intro _ _; rfl)

/-- Serial frames in both modes: a read, a write, a rejected write, and every chain command. -/
theorem witness_serial :
    (let s := up (at_ bMSP MSP_CFG 0x20); portsUp s.dev = true ∧ s.dev.sl.restart = false ∧ mspChain s.dev = false ∧ (0xFE : Byte).getLsbD 7 = true ∧ (0x7E : Byte).getLsbD 7 = false ∧
      (0x7E : Byte).toNat % 64 ≠ 0x3F ∧ 32 % mspWlen s.dev = 0 ∧ (32 * [(0 : Word)].length + 1) % mspWlen s.dev ≠ 0 ∧
      32 ≤ 64) ∧
    (let s := up fun d => { at_ bMSP MSP_CFG 0x120 d with msp := { d.msp with chainWr := some (62, 5), chainRd := some (62, 7) } };
      let c : State := { s with dev := setFlag s.dev bMSP MSP_CFG 8 true };
      portsUp c.dev = true ∧ c.dev.sl.restart = false ∧ mspChain c.dev = true ∧ mspWlen c.dev = 32 ∧ (stageShift 32 c.dev.msp.resp.toNat 0x3E000001 32).2 / 2 ^ 24 = (62 : Fin 64).val ∧
        (62 : Fin 64).val ≠ 0x3F ∧ c.dev.msp.chainWr = some (62, 5) ∧ c.dev.msp.chainRd = some (62, 7)) ∧
    (let s := up (at_ bMSP MSP_CFG 0x118); portsUp s.dev = true ∧ s.dev.sl.restart = false ∧ mspChain s.dev = true ∧ mspWlen s.dev ≠ 32) := by
  and_intros <;> decide +kernel

/-- A crossing frame header of a type, in a direction, on lane 1 or, for TIME and TRIG, on lane 0. -/
def xh (ty : Fin 16) (toHost : Bool) : XHead :=
  { ty := ty, dir := if toHost then 2 else 1, len := 4, seq := 0, lane := if ty = 5 ∨ ty = 6 then 0 else 1, toHost := toHost, crcOk := true }

def pulseMsg : TrigMsg :=
  { vmaj := 3, vmin := 0, kind := 2, hold := false, ctrl := false, group := 0, ts := 0, origin := 0, hops := 0, ochan := 0, crc1 := true, crc2 := true }

/-- SHA-512 of no bytes, first byte lowest. -/
def emptyDigest : Nat :=
  0x3eda27f97a3238a5817a4147bd31b9632fec7e87d21883ffb0f2855d3cd1d047cee96cd321a9f483dc15570b05e420d607806dd6502854f1bdb8ef7e35e183cf

/-- The crossing frames: CMD, RSP, REC of both kinds, TRIG, FLT and BOOT. -/
theorem witness_crossing_frames :
    (let s := up id; s.dev.xc.early = [] ∧ xFate s.dev { xh 1 false with seq := 1 } 1 false = .early ∧ xTaken s.dev (xh 1 false) 1 false = true ∧ s.dev.pwr.fup = true ∧ 4 * 1 < regionSize 1 ∧ (portSt s.dev .slU).rd = none ∧
      blkField (.bank 0 .bk) = true ∧ (regAt (.bank 0 .bk) BK_PSTS).isSome = true ∧ xTaken s.dev (xh 2 true) 2 true = true ∧
      xTaken s.dev (xh 6 false) 6 false = true ∧ (xh 6 false).toHost = false ∧ pulseMsg.kind.val = 2 ∧ xTaken s.dev (xh 7 true) 7 true = true) ∧
    (∀ x ∈ [SpoolItem.record none [], SpoolItem.body c0 1 []], let s := up fun d => modXc d fun k => { k with spool := [x] };
      s.dev.xc.early = [] ∧ xTaken s.dev (xh 3 true) 3 true = true ∧ hostUp s.dev = true ∧ s.dev.xc.spool = x :: []) ∧
    (∀ g ∈ [none, some [(1 : Word)]], let s := up fun d => modXc (modPwr d fun k => { k with fup := false }) fun k => { k with bootDig := g };
      s.dev.xc.early = [] ∧ xTaken s.dev (xh 8 false) 8 false = true ∧ s.dev.pwr.frail = true ∧ s.dev.pwr.fup = false ∧ s.dev.xc.bootDig = g) := by
  and_intros <;> decide +kernel

/-- The field image slot 2 erased and written with the header of an image of no body, whose DIGEST is the SHA-512 digest of no bytes. -/
def bootSlots (d : Dev) : Dev :=
  { d with sec := { d.sec with slots := d.sec.slots.set 2 { erased := true, words := (0, 0x4D49464B) :: (1, 0x102) ::
      ((List.range 16).map fun i => (4 + i, BitVec.ofNat 32 (emptyDigest / 2 ^ (32 * i)))) } } }

/-- The first BOOT frame, where the device's keys pass the signatures and SHA-512 has its value for no bytes: the image in the slot verifies. -/
theorem witness_boot_frame (hs : ∀ n a b, Config.signatureOk n a b = true) (hd : Config.sha512 [] = emptyDigest) :
    let s := up fun d => bootSlots (modPwr d fun k => { k with fup := false }); let h := xh 8 false
    let ws := (List.range 16).map fun i => BitVec.ofNat 32 (emptyDigest / 2 ^ (32 * i))
    let x := imagePick (frameTaken s.dev h) (nextField s.dev)
    s.dev.xc.early = [] ∧ xTaken s.dev h 8 false = true ∧ s.dev.pwr.frail = true ∧ s.dev.pwr.fup = false ∧ s.dev.xc.bootDig = none ∧
      x.1 = some 2 ∧ wordBytes (ws.take 16) = imageDigest x.2 2 := by
  intro s h ws x
  have hf : imageFail (frameTaken s.dev h) 2 = none := by
    have h1 : imageShape (frameTaken s.dev h) 2 = true := by decide +kernel
    have h2 : slotBytes (frameTaken s.dev h) 2 0x1000 (imageLen (frameTaken s.dev h) 2) = [] := by decide +kernel
    have h3 : leBytes 64 emptyDigest = imageDigest (frameTaken s.dev h) 2 := by decide +kernel
    have h4 : ¬imageArb (frameTaken s.dev h) 2 < fld (frameTaken s.dev h) bSEC SEC_ARB 5 0 := by decide +kernel
    simp only [imageFail, h1, h2, hs, shaBytes, hd, h3, h4, ne_eq, not_true_eq_false, Bool.not_true, Bool.false_eq_true, if_false]
  have hx : x = (some 2, frameTaken s.dev h) := by
    have h2 : nextField s.dev = 2 := by decide +kernel
    simp only [x, h2, imagePick, hf]
  rw [hx]
  and_intros <;> decide +kernel

/-- TIME frames and heartbeats: a send at the grid, both directions, the echo, the timer and the gap, and the loss and return of the clock. -/
theorem witness_crossing_time :
    (let s := up fun d => { d with tb := { d.tb with xd := some 4000, xx := { d.tb.xx with t1 := some 0, t2 := some 0 } } }; let d := advance s.dev 0;
      HostCan s 0 ∧ supRuns d = true ∧ d.xc.up = true ∧ onHostGrid d d.tb.now 16384 = true ∧ d.xc.early = [] ∧ (fieldAt s.dev 0).xc.early = [] ∧
        (fieldAt s.dev 0).tb.xx.t1 = some 0 ∧ (fieldAt s.dev 0).tb.xd = some 4000 ∧ 1024 < (tsDiff (fieldNow (fieldAt s.dev 0)) 0 - 4000).natAbs ∧
        (xh 9 true).toHost = true ∧ (xh 9 false).toHost = false ∧ autoOut (fieldAt s.dev 0) = false ∧ canBe (fieldNow s.dev) 0 = true ∧
        xTaken (fieldAt s.dev 0) (xh 5 false) 5 false = true ∧ xTaken d (xh 5 true) 5 true = true ∧ d.tb.xx.t1 = some 0 ∧ d.tb.xx.t2 = some 0 ∧
        tsValid 0 = true ∧ supRuns s.dev = true ∧ xTaken d (xh 9 true) 9 true = true ∧ xTaken (fieldAt s.dev 0) (xh 9 false) 9 false = true ∧
        flag s.dev bXC XC_STS 9 = false) ∧
    Serves (up id) true bXC XC_AUTO ∧ (let s := up fun d => modXc d fun k => { k with up := false }; supRuns s.dev = true ∧ s.dev.xc.up = false) ∧
    (let s := up fun d => modXc { d with tb := { d.tb with mono := 200000000 } } fun k => { k with autoRun := true }; let d := fieldAt s.dev 0;
      FieldCan s 0 ∧ d.xc.autoRun = true ∧ 500 * tapsPerUs < d.tb.mono - d.xc.autoFrom ∧ 1000 * tapsPerUs < d.tb.mono - d.xc.autoFrom ∧ d.xc.hbLate = false ∧
        d.tb.mono < d.xc.autoFrom + autoTaps d.xc.autoWin) ∧
    flag (up (at_ bXC XC_STS 0x200)).dev bXC XC_STS 9 = true := by
  unfold HostCan FieldCan; and_intros <;> first | decide +kernel | (intro _ _; rfl)

/-- The loss of a lane, of lane 0, of the crossing and of time, its return, the autonomy expiry, the interlock and a fatal FLT frame. -/
theorem witness_crossing_loss :
    (let s := up fun d => modXc d fun k => { k with fails := [0, 0, 0, 15, 0, 0, 0, 15] };
      ∀ h : Bool, (3 : Fin 4).val ≠ 0 ∧ flag s.dev bXC XC_LANES (3 + 4 * b2n h) = true ∧ 15 ≤ s.dev.xc.fails.getD (3 + 4 * b2n h) 0) ∧
    (let s := up fun d => { d with tb := { d.tb with mono := 200000000000 } }; ∀ h : Bool, supRuns s.dev = true ∧ lane0Failed s.dev h = true) ∧
    (let s := up fun d => modXc { d with tb := { d.tb with mono := 200000000000 } } fun k => { k with hbWatch := true }; let d := advance s.dev 0;
      HostCan s 0 ∧ supRuns d = true ∧ d.xc.hbWatch = true ∧ d.xc.up = true ∧ d.xc.hbHost + msTaps 1 ≤ d.tb.mono) ∧
    (let s := up fun d => modXc { d with tb := { d.tb with mono := 100000000000000 } } fun k => { k with up := false }; let d := advance s.dev 0;
      HostCan s 0 ∧ supRuns d = true ∧ d.xc.up = false ∧ d.xc.autoFrom + autoTaps d.xc.autoWin + msTaps 1000 ≤ d.tb.mono ∧
        flag s.dev bXC XC_LANES 0 = true ∧ fld s.dev bXC XC_LANES 3 1 ≠ 0 ∧ flag s.dev bXC XC_LANES 4 = true ∧ fld s.dev bXC XC_LANES 7 5 ≠ 0) ∧
    (let s := up fun d => modXc { d with tb := { d.tb with mono := 100000000000000 } } fun k => { k with autoRun := true }; let d := fieldAt s.dev 0;
      FieldCan s 0 ∧ d.xc.autoRun = true ∧ d.xc.autoFrom + autoTaps d.xc.autoWin ≤ d.tb.mono ∧ s.dev.pwr.filk = true ∧
        s.dev.xc.early = [] ∧ xTaken s.dev (xh 7 false) 7 false = true ∧ s.dev.pwr.fup = true) ∧
    (let s := up fun d => modPwr d fun k => { k with fup := false }; canBe (fieldNow s.dev) 0 = true ∧ s.dev.pwr.fup = false) := by
  unfold HostCan FieldCan; and_intros <;> decide +kernel

end Sys2Proof.Tests
end

