-- ==== Sys2Proof/Tests/WitSteps.lean ====
section
/-! SUPPORT. Witnesses of the statements about steps, waveforms, the program store and the schedule. -/

set_option Elab.async false

namespace Sys2Proof.Tests

open Sys2Proof Sys2Proof.Machine

/-- Timer 0 of bank 0 enabled, one segment in the directory, and a machine set up to drive. -/
def waveSet (f : Mach → Mach) (d : Dev) : Dev :=
  at_ (.bank 0 .bk) BK_WDIR 1 (at_ (.bank 0 .bk) BK_WTMR 0x80000001 (at_ (chBlk c0) CH_SHUNT 1
    (mach (fun m => f { m with setup := { vmin := some 0, vmax := some 0, ilim := some 0, plim := some 0 } }) d)))

/-- A state that issues `w`, with the descriptor of segment 0 (one sample at index 8) in the waveform store. -/
def playing (w : Nat) (f : Mach → Mach) : State :=
  let s := issuing w (waveSet f)
  { s with mem := Mem.write32 s.mem (bankMem 0 + 0x1000000) 8 }

/-- The item of that segment, and the step that plays. -/
def item0 : PlayItem := { stream := false, seg := 0, timer := 0, qty := 0, start := 8, len := 1, scale := 0, ofs := 0, reps := 1, abort := false, done := 0 }
def strm0 : PlayItem := { stream := true, seg := 0xFFF, timer := 0, qty := 0, start := 0, len := 4, scale := 0, ofs := 0, reps := 1, abort := false, done := 0 }
def step0 (k : StepKind) (on : Bool) : Step :=
  { kind := k, started := on, mode := 0, setpoint := 0, s0 := 0, setup := {}, startTs := 0, startMono := 0, q0 := 0, e0 := 0, cum0 := {}, flags := 0,
    settled := false, ending := none, deferred := false, branch := none }

/-- PLAY and STREAM: first item, a second one with room and without, and the room that comes. -/
theorem witness_waveform : let wp := word 0x30 0 0 0 0 0; let ws := word 0x31 0 0 0 0 4;
    ∀ x ∈ [(wp, item0), (ws, strm0)],
      let first := playing x.1 id; let next := playing x.1 fun m => { m with st := .step, step := some (step0 .wave true) };
      let full := playing x.1 fun m => { m with st := .step, step := some (step0 .wave true), queue := [item0] };
      let room := playing x.1 fun m => { m with st := .wait, wait := .room, step := some (step0 .wave true) };
      (fOp x.1 = 0x30 ∧ segItem first.mem first.dev c0.bank 0 (fImm x.1 31 16 + 1) = some x.2 ∨
        fOp x.1 = 0x31 ∧ fImm x.1 39 32 < 16 ∧ fMods x.1 1 0 < 3 ∧ fImm x.1 31 0 = 4) ∧
      (∀ s ∈ [issued first c0 x.1, issued next c0 x.1, issued full c0 x.1, issued (withMach room c0 resumed) c0 x.1],
        bit (timerReg s.dev c0.bank x.2.timer) 31 = true ∧ (ch s.dev c0).mach.provs = [] ∧ (ch s.dev c0).mach.replaced = none) ∧
      Issues first c0 x.1 ∧ (ch (issued first c0 x.1).dev c0).mach.step = none ∧
      driveFault (modMach (issued first c0 x.1).dev c0 fun k => { k with playing := some x.2, queue := [], replaced := none, itemAt := none, playLast := 0 }) c0 .wave = none ∧
      Issues next c0 x.1 ∧ (step0 .wave true).mode = x.2.qty ∧ (ch (issued next c0 x.1).dev c0).mach.queue = [] ∧
      Issues full c0 x.1 ∧ (ch (issued full c0 x.1).dev c0).mach.queue ≠ [] ∧
      (ch room.dev c0).mach.wait = .room ∧ (ch room.dev c0).mach.queue = [] ∧ Issues (withMach room c0 resumed) c0 x.1 := by
  unfold Issues; decide +kernel

/-- MEAS and SNAP, and the ends of each. -/
theorem witness_measure :
    (let w := word 0x38 2 0 0 3 101; Issues (issuing w id) c0 w ∧ fOp w = 0x38 ∧ fMods w 2 0 < 4 ∧ fD w % 2 = 0) ∧
    (let w := word 0x39 14 0 0 0 0; Issues (issuing w id) c0 w ∧ fOp w = 0x39 ∧ fD w % 2 = 0) ∧
    (let s := up (mach fun m => { m with st := .wait, wait := .snap 14, snapOut := some (1, 2) });
      (ch s.dev c0).mach.wait = .snap 14 ∧ (ch s.dev c0).mach.snapOut = some (1, 2) ∧ 14 < 15) ∧
    (let r : LineRes := { sv := 0, si := 0, n := 1, nf := 0, dq := -100000, de := 0, fl := 0x10 };
      let s := up fun d => modCh (at_ (chBlk c0) CH_SHUNT 1 d) c0 fun k =>
        { k with mach := { k.mach with st := .wait, wait := .meas 14 2 1 }, meas := { k.meas with lineRes := some r } };
      let d := fieldAt s.dev 0;
      FieldCan s 0 ∧ (ch d c0).mach.wait = .meas 14 2 1 ∧ (ch d c0).meas.lineRes = some r ∧ noShunt d c0 = false) := by
  unfold Issues FieldCan; and_intros <;> decide +kernel

/-- An operation in progress, for SEAL. -/
def colo0 : Colo :=
  { slot := 0, entry := 0, flev := 0, rdig := [], cell := [], ots := 0, olt := 0, q0 := 0, e0 := 0, cdig := 0, zres := [], pres := [], nx := 0, steps := 0,
    flags := 0, tmax := none }

/-- ARM, both forms of TRIGC with every kind, both of MOULD, SIG, POST and SEAL. -/
theorem witness_triggers :
    (let w := word 0x3A 0 1 2 0 9; let s := issuing w fun d => at_ (.bank 0 .cap) CAP_CALLOC 0x10000 (mach (fun m => setW (setW m 1 680) 2 2) d);
      let d := (issued s c0 w).dev; let m := (ch d c0).mach;
      Issues s c0 w ∧ fOp w = 0x3A ∧ fMod w 0 = false ∧ fImm w 3 0 < 10 ∧
        ∀ x ∈ members d c0, 0 < capPages d x ∧ (wReg m (fA w)).toNat + max 1 (wReg m (fB w)).toNat ≤ capCap d x) ∧
    (let w := word 0x3A 0 0 0 1 0x1300; Issues (issuing w id) c0 w ∧ fOp w = 0x3A ∧ fMod w 0 = true ∧ fImm w 12 12 = 1) ∧
    (∀ x ∈ [(0, 2, 0), (1, 2, 0), (2, 2, 0), (3, 15, 0), (4, 11, 0), (5, 15, 0x33)], let w := word 0x3A 0 2 4 1 (x.1 + x.2.1 * 16 + x.2.2 * 65536);
      let s := issuing w id;
      Issues s c0 w ∧ fOp w = 0x3A ∧ fMod w 0 = true ∧ fImm w 12 12 = 0 ∧ x.1 = fImm w 2 0 ∧ x.2.1 = fImm w 7 4 ∧ x.1 < 6 ∧ trigOperand x.1 x.2.1 = true ∧
        (x.1 ≠ 3 → x.1 ≠ 5 → x.2.1 < 12) ∧ (x.1 = 5 → condExists (fImm w 21 16) = true ∧ 5 < fImm w 21 16) ∧ fA w % 2 = 0 ∧
        (wReg (ch (issued s c0 w).dev c0).mach (fA w)).toInt ≤ (wReg (ch (issued s c0 w).dev c0).mach (fB w)).toInt) ∧
    (let w := word 0x3B 0 0 0 2 0x00FF000F; let s := issuing w (at_ (.bank 0 .mld) (MLD_CFG + 4 * 15) 0x80000000);
      Issues s c0 w ∧ fOp w = 0x3B ∧ fMods w 1 0 ≠ 3 ∧ bit (mldReg (issued s c0 w).dev c0.bank (fImm w 3 0 % 16)) 31 = true ∧ fMod w 2 = false ∧
        fImm w 31 16 < bodyLen (issued s c0 w).dev c0 ∧ (bindPut (ch (issued s c0 w).dev c0).mach.setup.binds ⟨15, fMods w 1 0, fImm w 31 16⟩).isSome = true) ∧
    (let w := word 0x3B 0 0 0 4 0x0000000F; let s := issuing w (at_ (.bank 0 .mld) (MLD_CFG + 4 * 15) 0x80000000);
      Issues s c0 w ∧ fOp w = 0x3B ∧ fMods w 1 0 ≠ 3 ∧ bit (mldReg (issued s c0 w).dev c0.bank (fImm w 3 0 % 16)) 31 = true ∧ fMod w 2 = true) ∧
    (∀ act ∈ [0, 1], let w := word 0x3D 0 0 0 act 9; Issues (issuing w id) c0 w ∧ fOp w = 0x3D ∧ fImm w 3 0 < 10) ∧
    (∀ act ∈ [0, 1], let w := word 0x3E 0 0 0 act 0; Issues (issuing w id) c0 w ∧ fOp w = 0x3E ∧ coloSealRoom (issued (issuing w id) c0 w).dev c0 = true) ∧
    (let w := word 0x3E 0 0 0 1 0; let s := issuing w fun d => modXc (modCh d c0 fun k => { k with colo := some colo0 }) fun x => { x with spool := [.body c0 32768 []] };
      Issues s c0 w ∧ fOp w = 0x3E ∧ fMod w 0 = true ∧ coloSealRoom (issued s c0 w).dev c0 = false) := by
  unfold Issues; and_intros <;> decide +kernel

/-- The events of a channel's step, and the spool space that comes. -/
theorem witness_step_events :
    (let s := up fun d => timeAt 1 (mach (fun m => { m with st := .step, step := some (step0 .rest false) }) d); let d := fieldAt s.dev 0;
      FieldCan s 0 ∧ (ch d c0).mach.step = some (step0 .rest false) ∧ (step0 .rest false).asked < d.tb.mono ∧ ctlBoundary d c0 = true ∧ (ledgerAdmit d c0 0).1 = true) ∧
    (let x := { step0 .rest true with ending := some (0, 0) }; let s := up (mach fun m => { m with st := .step, step := some x }); let d := fieldAt s.dev 0;
      FieldCan s 0 ∧ (ch d c0).mach.step = some x ∧ x.ending = some (0, 0) ∧ (ch d c0).mach.queued = none ∧ ctlBoundary d c0 = true) ∧
    (∀ n ∈ [7, 8], let r : SigReq := ⟨n, 0, 0⟩; let s := up (mach fun m => { m with sigs := [r] }); let d := fieldAt s.dev 0;
      FieldCan s 0 ∧ (r.target < 8 ∨ r.target = 8) ∧ (ch d c0).mach.sigs = [r] ∧ (ch d c0).mach.sigItem = [] ∧ r.action = 0 ∧ ctlBoundary d c0 = true) ∧
    (let s := up fun d => modCh d c0 fun k => { k with cap := { k.cap with armAt := some 0 } }; let d := fieldAt s.dev 0;
      FieldCan s 0 ∧ (ch d c0).cap.armAt = some d.tb.mono ∧ (ch d c0).cap.group = 0) ∧
    (let s := up (mach fun m => { m with wait := .sealing }); (ch s.dev c0).mach.wait = .sealing ∧ coloSealRoom s.dev c0 = true) := by
  unfold FieldCan; and_intros <;> decide +kernel

/-- The machine commands: a START that is taken and one with a cause, STOP, ABORT, CLEAR and NUDGE. -/
theorem witness_machine_commands :
    (let s := up fun d => image (at_ (chBlk c0) CH_CTRL 1 d); let v : Word := 1;
      isFollower s.dev c0 = false ∧ Serves s true (chBlk c0) CH_ACTL ∧ Serves s true (chBlk c0) CH_AEV ∧ bits v 3 0 = 1 ∧
        startCause s.dev c0 (bits v 10 7) (bits v 15 11) = 0 ∧ startCause (up id).dev c0 (bits v 10 7) (bits v 15 11) ≠ 0) ∧
    (let s := up (mach fun m => { m with st := .wait, step := some (step0 .rest true) });
      Serves s true (chBlk c0) CH_ACTL ∧ (ch s.dev c0).mach.st = .wait ∧ (ch s.dev c0).mach.step.isSome = true ∧ reqOf s.dev.led.queue c0 = none ∧
        reqOf s.dev.led.expired c0 = none ∧ fOp (pcWord s.mem s.dev c0) ≠ 0x0B ∧ fOp (pcWord s.mem s.dev c0) ≠ 0x3F) ∧
    (let s := up (mach fun m => { m with st := .safehalt }); Serves s true (chBlk c0) CH_ACTL ∧ (ch s.dev c0).mach.st = .safehalt ∧ (ch s.dev c0).mach.startReq = none) ∧
    (∀ k, schFind (up id).dev c0 k 160 = none) ∧
    (let s := up (mach fun m => { m with startReq := some 0x81 }); (ch s.dev c0).mach.startReq = some 0x81) := by
  unfold Serves; and_intros <;> first | decide +kernel | (intro _ _; rfl) | (intro _; rfl)

/-- The program store: COMMIT, RELEASE of an idle slot, the end of a commit, a word outside any image and the last word of an image. -/
theorem witness_program_store :
    (let s := up image; let v : Word := 2;
      Serves s true (.bank 0 .bk) BK_PCTL ∧ (bk s.dev 0).seq.commit = none ∧ bits (1 : Word) 1 0 = 1 ∧ bits v 1 0 = 2 ∧
        slotValid s.dev 0 (bits v 11 8) = true ∧
        (∀ x ∈ bankChans 0, (ch s.dev x).mach.slot.map (fun k => k.val) = some (bits v 11 8) → (ch s.dev x).mach.st ∉ [.run, .step, .wait])) ∧
    (let s := up fun d => modSeq d 0 fun q => { q with commit := some 1 }; (bk s.dev 0).seq.commit = some 1) ∧
    (∀ i : Fin 2, let n := if i = 0 then 272 else 273; let s := up image;
      portServes s.dev true (BitVec.ofNat 32 (bankMem 0 + 8 * n + 4)) = true ∧ s.dev.pwr.fup = true ∧ s.dev.xc.up = true ∧
        inImage s.dev 0 n = decide (i = 0)) := by
  unfold Serves; and_intros <;> first | decide +kernel | (intro _ _; rfl)

/-- A timer tick, the deadline of a successor, a stream frame and a stream reset. -/
theorem witness_waveform_events :
    (let x := { step0 .wave true with kind := .wave };
      let s := up fun d => at_ (.bank 0 .bk) BK_WTMR 0x80000001 (mach (fun m => { m with step := some x, playing := some item0 }) d); let d := fieldAt s.dev 0;
      FieldCan s 0 ∧ bit (timerReg d 0 0) 31 = true ∧ timerTicks d 0 0 = true ∧ c0.bank = 0 ∧
        (∀ y, (ch d y).mach.provs = [] ∧ (ch d y).mach.replaced = none) ∧ x.kind = .wave ∧ x.started = true ∧ item0.timer = 0 ∧ item0.stream = false ∧
        (∀ y, y ≠ c0 → (ch d y).mach.step = none ∧ (ch d y).mach.playing = none ∧ (ch d y).mach.queue = []) ∧
        (ch d c0).mach.step = some x ∧ (ch d c0).mach.playing = some item0 ∧ (ch d c0).mach.queue = [] ∧ itemOver item0 = false ∧
        (ch d c0).mach.tickAt ≠ some d.tb.mono ∧ (bk d 0).seq.badSegs.contains item0.seg = false) ∧
    (let p : Prov := { tick := { at_ := 0, ts := 0, meas := [] }, seg := 0, pidx := 0, last := 0 };
      let s := up fun d => timeAt succLag (mach (fun m => { m with provs := [p] }) d); let d := fieldAt s.dev 0;
      FieldCan s 0 ∧ (ch d c0).mach.provs = [p] ∧ (ch d c0).mach.replaced = none ∧ p.tick.at_ + succLag ≤ d.tb.mono ∧ p.abort = none) ∧
    (let h : XHead := ⟨4, 1, 3, 0, 1, false, true⟩; let s := up (at_ (chBlk c0) CH_SCTL 1); let w : Word := 2;
      s.dev.pwr.fup = true ∧ s.dev.xc.early = [] ∧ xTaken s.dev h 4 false = true ∧ h.len.val = [(0x20001 : Word)].length + 2 ∧ Bank.chan ⟨bits w 28 26 % 8, Nat.mod_lt _ (by decide)⟩ (bits w 25 21) = c0 ∧
        bits w 25 21 < 24 ∧ bits w 10 0 = 2 ∧ flag s.dev (chBlk c0) CH_SCTL 0 = true ∧ (0 : Word) = (ch s.dev c0).mach.widx ∧
        (∀ x ∈ strmSamples 0 [0x20001] 2, 0 ≤ idxDiff x.idx (ch s.dev c0).mach.pidx) ∧
        (ch s.dev c0).mach.fifo.length + (strmSamples 0 [0x20001] 2).length ≤ 2048) ∧
    (let s := up id; bit (2 : Word) 1 = true ∧ Serves s true (chBlk c0) CH_SCTL ∧ isFollower s.dev c0 = false ∧ streamPlays (ch s.dev c0).mach = false) := by
  unfold FieldCan Serves; and_intros <;> first | decide +kernel | (intro _ _; rfl)

/-- Each kind of submission, and a scheduled command of each kind that is due. -/
theorem witness_schedule :
    (∀ k ∈ [1, 2, 3, 4, 5], let s := up (at_ (.bank 0 .bk) (schOff .slU BK_SCH_CMD) (BitVec.ofNat 32 k));
      portServes s.dev true (regAddr (.bank 0 .bk) BK_SCH_GO) = true ∧ s.dev.pwr.fup = true ∧ s.dev.xc.up = true ∧ s.dev.cleared = [] ∧
        flag s.dev bDEV DEV_STS 17 = true ∧ bits (schReg s.dev .slU 0 BK_SCH_CMD) 3 0 = k) ∧
    (∀ k ∈ [1, 2, 3, 4], let e : Sched := ⟨0, k, 0, 1, BitVec.ofNat 32 (0x70 + k), 0, false⟩;
      let s := up fun d => image (at_ (chBlk c0) CH_CTRL 1 (modSeq (mach (fun m => if k = 1 then m else { m with st := .run, step := some (step0 .rest true) }) d) 0
        fun q => { q with pending := [e] })); let d := fieldAt s.dev 0;
      FieldCan s 0 ∧ schFind d c0 k (if k = 2 then 7680 else 1) = some e ∧ (k = 1 → schStartDrop d c0 e = 0) ∧ (k ≠ 1 → schStartDrop d c0 e ≠ 0) ∧
        (e.safe = false ∧ flag d (chBlk c0) CH_CTRL 0 = true ∧ isFollower d c0 = false) ∧ (ch d c0).mach.st = (if k = 1 then .idle else .run) ∧
        reqOf d.led.queue c0 = none ∧ reqOf d.led.expired c0 = none ∧
        fOp (pcWord s.mem d c0) ≠ 0x0B ∧ fOp (pcWord s.mem d c0) ≠ 0x3F) ∧
    (∀ k ∈ [1, 4], let e : Sched := ⟨0, k, 0, 1, 0, 0, true⟩; let s := up fun d => modSeq d 0 fun q => { q with pending := [e] }; let d := fieldAt s.dev 0;
      FieldCan s 0 ∧ schFind d c0 k 1 = some e ∧ schStartDrop d c0 e ≠ 0 ∧ e.safe = true) := by
  unfold FieldCan; and_intros <;> decide +kernel

end Sys2Proof.Tests
end

