-- ==== Sys2Proof/Tests/WitTime.lean ====
section
/-! SUPPORT. Witnesses of the statements about time sources, TDCs, captures and Moulds. -/

set_option Elab.async false

namespace Sys2Proof.Tests

open Sys2Proof Sys2Proof.Machine

/-- TIME frames of each kind, SYNC and its answers, pulses on TSYNC_IN and TSYNC_OUT, and a source that is gone and one that is there. -/
theorem witness_time_source :
    (let s := up id; Serves s true bTB TB_CTL ∧ bit (1 : Word) 0 = true ∧ flag s.dev bTB TB_CTL 0 = false) ∧
    (let s := up fun d => at_ bTB TB_CTL 5 (tb (fun k => { k with slx := { t1 := some 0, t2 := some 0, t3 := none } }) (linked d)); let d := advance s.dev 0;
      HostCan s 0 ∧ (slPort d .d).lock = true ∧ (slPort d .d).wait = [] ∧ (slPort d .d).replay.length < 64 ∧ (slPort d .u).wait = [] ∧
        (slPort d .u).replay.length < 64 ∧ tbConf d = 2 ∧ flag d bTB TB_CTL 0 = true ∧ onHostGrid d d.tb.now 65536 = true ∧
        Arrives d .u (frame 9 1 [0]) ∧ isTime (frame 9 1 [0]) 0 = true ∧ (slPort d .u).lock = true ∧ d.tb.slx.t2.isSome = true ∧ d.tb.slx.t3 = none ∧
        Arrives d .d (frame 9 1 [0x10000000]) ∧ isTime (frame 9 1 [0x10000000]) 1 = true ∧ d.tb.slx.t1 = some 0 ∧ sourceGone d = false) ∧
    (∀ al ∈ [((0 : Nat), false), (0x80000, true)], let w : List Word := [0x20000000, 0, 0, 0x100, 0];
      let s := up fun d => at_ bTB TB_STS (wordN al.1) (at_ bTB TB_CTL 5 (tb (fun k => { k with slx := { t2 := some 0, t3 := some 0 } }) (linked d))); let d := advance s.dev 0;
      HostCan s 0 ∧ Arrives d .u (frame 9 1 w) ∧ isTime (frame 9 1 w) 2 = true ∧ d.tb.slx.t2 = some 0 ∧ d.tb.slx.t3 = some 0 ∧ takesLink d = true ∧
        flag d bTB TB_CTL 0 = true ∧ tsValid (tsAt w 1) = true ∧ tsValid (tsAt w 3) = true ∧ aligned d = al.2) ∧
    (let w : List Word := [0x30000000, 1, 0, 0, 0, 5, 0]; let s := up fun d => at_ bTB TB_STS 0x80000 (at_ bTB TB_CTL 5 (linked d)); let d := advance s.dev 0;
      HostCan s 0 ∧ Arrives d .u (frame 9 1 w) ∧ isTime (frame 9 1 w) 3 = true ∧ announcer d = false ∧ d.tb.hl.cyc < (annOf d w).cyc) ∧
    (∀ c ∈ [((0x100 : Nat), true), (0x200, false)], let s := up (at_ bTB TB_TSYNC_CFG (wordN (0x14 + c.1))); let d := advance s.dev 0;
      HostCan s 0 ∧ flag d bTB TB_TSYNC_CFG 8 = c.2 ∧ onHostGrid d d.tb.now (2 ^ d.tb.perF) = true ∧ flag d bTB TB_TSYNC_CFG 9 = !c.2) ∧
    (∀ al ∈ [((0 : Nat), false), (0x80000, true)], let s := up fun d => at_ bTB TB_TSSET_LO 0x100 (at_ bTB TB_STS (wordN al.1) (at_ bTB TB_CTL 3 d)); let d := advance s.dev 0;
      HostCan s 0 ∧ flag d bTB TB_TSYNC_CFG 9 = false ∧ takesTsync d = true ∧ flag d bTB TB_CTL 0 = true ∧ tsset d ≠ 0 ∧ aligned d = al.2 ∧
        sourceGone d = true) := by
  unfold HostCan Serves Arrives; and_intros <;> first | decide +kernel | (intro _ _; rfl)

/-- TSSET with a valid and an invalid TS behind an open lock, the calibration of the hop delay, and the loss and return of the reference. -/
theorem witness_tsset_and_cal :
    (∀ x ∈ [((0 : Nat), true), (0xA0, false)], let s := up fun d => openLock bTB (at_ bTB TB_TSSET_LO (wordN x.1) d);
      portServes s.dev true (regAddr bTB TB_TSSET_HI) = true ∧ s.dev.cleared = [] ∧ (portSt s.dev .slU).wr = none ∧ lockOpen s.dev bTB = true ∧
        tsValid (BitVec.ofNat 64 ((rd s.dev bTB TB_TSSET_LO).toNat + 0x100000000 * (0 : Word).toNat)) = x.2) ∧
    (Serves (up id) true bTB TB_CAL ∧ bit (0x80000000 : Word) 31 = true ∧ (up id).dev.tb.calRun = false) ∧
    (let s := up (tb fun k => { k with calRun := true, calDiffs := List.replicate 256 0 }); let d := advance s.dev 0;
      HostCan s 0 ∧ d.tb.calRun = true ∧ d.tb.calDiffs.length = 256) ∧
    (let s := up (tb fun k => { k with refclk := true }); s.dev.tb.refclk = true ∧ (linkMember s.dev && (slPort s.dev .u).lock) = false) ∧
    (let s := up fun d => at_ bTB TB_CTL 5 (tb (fun k => { k with refclk := true }) (linked d));
      s.dev.tb.refclk = true ∧ linkMember s.dev = true ∧ (slPort s.dev .u).lock = true) ∧
    (let s := up id; hostUp s.dev = true ∧ s.dev.tb.refclk = false ∧ flag s.dev bDEV DEV_STS 18 = false ∧ sourceGone s.dev = false) := by
  unfold HostCan Serves; and_intros <;> first | decide +kernel | (intro _ _; rfl)

/-- Tap tables that differ by 4 and by 5 from the applied one, a new table that applies on either side of the barrier, edges into a queue with room and into a
full one, and the pop of each kind of queue. -/
theorem witness_tdc :
    (∀ x ∈ [4, 5], let s := up (tb fun k => { k with taps := (0, BitVec.ofNat 8 x) :: (List.range 191).map fun j => (j + 1, 0xFF) });
      let hits := 1048576 :: List.replicate 191 0;
      hitsWhole hits = true ∧ (tapDiffs (tapsOf s.dev 0) (tableOf s.dev hits).1).foldl max 0 = x ∧ (0 : Fin 390).val / 2 = c0.val) ∧
    (∀ l ∈ [383, 384], let y := (l, List.replicate 192 (1 : Byte)); let s := up (tb fun k => { k with tapNew := [y] });
      let d := if hostLine l then advance s.dev 0 else fieldAt s.dev 0;
      HostCan s 0 ∧ FieldCan s 0 ∧ lineGrid d l 0 = true ∧ d.tb.tapNew.find? (fun z => z.1 == l) = some y ∧ y.2.length = 192) ∧
    (∀ n ∈ [255, 256], let e : TdcEntry := ⟨0, 0, 0⟩;
      let s := up fun d => at_ bTB (scfgOff 3) 0x31 (tb (fun k => { k with taps := [(387 * 192, 10)], sys := [{}, {}, {}, { queue := List.replicate n e }] }) d);
      let t : TS := 0x100; let d := doTapApply 387 t (advance s.dev t);
      HostCan s t ∧ t.toNat % 256 = 0 ∧ hitStamp d 387 t 0 = some (tsAdd t (-10)) ∧ d.tb.sys.length = 4 ∧ edgeSel (fld d bTB (scfgOff 3) 5 4) true = true ∧ (sysTdc d 3).last = none ∧ flag d bTB (scfgOff 3) 0 = true ∧
        flag d bTB (scfgOff 3) 1 = false ∧ fld d bTB (scfgOff 3) 11 10 = 0 ∧ (sysTdc d 3).queue.length = n ∧ (sysTdc d 3).ovf = false) ∧
    (let s := up id; (portSt s.dev .slU).rd = none ∧ s.dev.tb.sys.length = 4 ∧ Serves s false bTB (scfgOff 3 + 0x1C) ∧
      Serves s false (bankOf c0 .tdc) (0x10C + 0x10 * c0.inBank)) := by
  unfold HostCan FieldCan Serves; and_intros <;> first | decide +kernel | (intro _ _; rfl)

def cap (f : Capture → Capture) (d : Dev) : Dev := modCh d c0 fun k => { k with cap := f k.cap }

/-- An output that is stored and one of an idle capture, a fire, the end of a settle window and of a capture, a disarm, a host fire, and allocations that fit and
that do not. -/
theorem witness_captures :
    (∀ st ∈ [CapState.armed, .idle], let s := up (cap fun k => { k with st := st, ratio := 40, hist := [(0, 0, 0, 0), (0, 0, 0, 0), (0, 0, 0, 0)] }); let d := fieldAt s.dev 0;
      FieldCan s 0 ∧ onGrid d (fieldNow d) (64 * capDec d c0) = true ∧ pstate d c0.bank ≤ 1 ∧ (ch d c0).cap.ratio = capDec d c0 ∧ 3 ≤ (ch d c0).cap.hist.length ∧
        capStores (ch d c0).cap ((ch d c0).cap.outNo + 1) (d.tb.mono - 3 * capP d c0 / 2) = decide (st = .armed) ∧ capBusy (ch d c0).cap = decide (st = .armed)) ∧
    (∀ n ∈ [none, some (0 : Nat)], let a : Anchor := ⟨0, 0, 0, 0, 0, 0, 0, 0, 255, 255, 0⟩; let s := up (cap fun k => { k with st := .filling, anchor := some a, post := 1, settle := n });
      let d := fieldAt s.dev 0; (ch d c0).cap.settle = none ∨ (ch d c0).cap.settle = some d.tb.mono) ∧
    (let x : Fire := ⟨0, 0, 3, 5, 255, 255⟩; let s := up (cap fun k => { k with st := .armed, outNo := 3, fires := [x], settle := some 0 }); let d := fieldAt s.dev 0;
      FieldCan s 0 ∧ (ch d c0).cap.st = .armed ∧ (ch d c0).cap.fires = [x] ∧ x.k ≤ (ch d c0).cap.outNo ∧ (ch d c0).cap.settle = some 0 ∧ 0 ≤ d.tb.mono ∧ capBusy (ch s.dev c0).cap = true ∧
        Serves s true (bankOf c0 .cap) (CAP_CCMD + 0x20 * c0.inBank)) ∧
    (let a : Anchor := ⟨0, 0, 0, 0, 0, 0, 0, 0, 255, 255, 0⟩; let s := up (cap fun k => { k with st := .filling, anchor := some a, post := 1 }); let d := fieldAt s.dev 0;
      FieldCan s 0 ∧ (ch d c0).cap.st = .filling ∧ (ch d c0).cap.anchor = some a ∧ a.k + (ch d c0).cap.post - 1 ≤ (ch d c0).cap.outNo ∧ (ch d c0).cap.settle = none ∧
        spoolLevel d < 28352) ∧
    (∀ x ∈ [((0x00100000 : Nat), true), (0x04000001, false)], let s := up id; let w := merge (rd s.dev (bankOf c0 .cap) CAP_CALLOC) (wordN x.1) 0x07FF03FF;
      portServes s.dev true (regAddr (bankOf c0 .cap) CAP_CALLOC) = true ∧ s.dev.pwr.fup = true ∧ s.dev.xc.up = true ∧ s.dev.cleared = [] ∧ capBusy (ch s.dev c0).cap = false ∧ allocOk s.dev c0 (bits w 9 0) (bits w 26 16) = x.2 ∧
        w ≠ rd s.dev (bankOf c0 .cap) CAP_CALLOC) := by
  unfold FieldCan Serves; and_intros <;> first | decide +kernel | (intro _ _; rfl)

/-- Enables of a Mould and of both profiles, violations with no step and with each action, and results that are ready. -/
theorem witness_moulds :
    (let s := up id; bit (0x80000000 : Word) 31 = true ∧ Serves s true (.bank 0 .mld) (MLD_CFG + 4 * 15) ∧ flag s.dev (.bank 0 .mld) (MLD_CFG + 4 * 15) 31 = false ∧
      Serves s true (.bank 0 .eis) (EIS_CFG0 + 0x80 * 15) ∧ flag s.dev (.bank 0 .eis) (EIS_CFG0 + 0x80 * 15) 31 = false ∧
      Serves s true (.bank 0 .eis) (PLS_CFG + 0x20 * 15) ∧ flag s.dev (.bank 0 .eis) (PLS_CFG + 0x20 * 15) 31 = false) ∧
    (∀ a ∈ [0, 1, 2], let v : Violation := ⟨⟨15, a, 0⟩, false, 0⟩; let x := run0;
      let s := up fun d => cap (fun k => { k with viols := [v] }) (mach (fun m => { m with step := some x }) d); let d := fieldAt s.dev 0;
      FieldCan s 0 ∧ (ch d c0).cap.viols = [v] ∧ (ch d c0).mach.step = some x ∧
        x.started = true ∧ v.step = (ch d c0).mach.counter ∧ v.bind.action = a ∧ x.ending = none ∧
        (ch (fieldAt (up (cap fun k => { k with viols := [v] })).dev 0) c0).mach.step = none) ∧
    (let x := { run0 with kind := .eis 15 }; let s := up (mach fun m => { m with step := some x }); let d0 := fieldAt s.dev 0;
      let t : TS := tsAdd 0 (tsDiff (eisEndAt d0 c0 15) (fieldNow d0)); let d := fieldAt s.dev t;
      FieldCan s t ∧ (ch d c0).mach.step = some x ∧ x.kind = .eis 15 ∧ x.started = true ∧ (ch d c0).eis.smp.length = eisM d c0.bank 15 * eisN0 d c0.bank 15 ∧
        0 ≤ tsDiff (fieldNow d) (eisEndAt d c0 15) ∧ tsDiff (fieldNow d) (eisEndAt d c0 15) ≤ 2867200) := by
  unfold FieldCan Serves; and_intros <;> first | decide +kernel | (intro _ _; rfl)

end Sys2Proof.Tests
end

section
/-! SUPPORT. The rules that every plain register write rests on: which place a register's address names, what the cycle of an access leaves
alone, what an access error changes, and what storing a register's fields leaves. -/

namespace Sys2Proof.Machine

open Sys2Proof

/-! ### Where a register's address lies (R36, R438, R439) -/

theorem regPlace_blkIdx {off al : Nat} (k : Blk) (ho : off < 0x4000) (ha : al < 4) :
    regPlace (blkIdx k) (off + 0x4000 * al) = .reg k off al := by
  have hoff : (off + 0x4000 * al) % 0x4000 = off := by omega
  have hal : (off + 0x4000 * al) / 0x4000 % 4 = al := by omega
  rw [regPlace, blkOfIdx_blkIdx, hoff, hal]

/-- Host blocks lie one after the other from address 0. -/
theorem locate_hostAddr {a : Word} {n o : Nat} (hn : n < 10) (ho : o < 0x10000) (ha : a.toNat = n * 0x10000 + o) :
    locate a = regPlace n o := by
  have hlt : n * 0x10000 + o < 0xA0000 := by omega
  have hdiv : (n * 0x10000 + o) / 0x10000 = n := by omega
  have hmod : (n * 0x10000 + o) % 0x10000 = o := by omega
  simp only [locate, ha, hlt, if_true, hdiv, hmod]

/-- Inside a bank's window the bank blocks come first and the channel windows from the seventeenth place on. -/
theorem locate_bankAddr {a : Word} {b n o : Nat} (hb : b < 8) (hn : n < 40) (ho : o < 0x10000)
    (ha : a.toNat = 0x01000000 + b * 0x400000 + n * 0x10000 + o) :
    locate a = if n < 8 then regPlace (10 + 8 * b + n) o else if 16 ≤ n then regPlace (74 + 24 * b + (n - 16)) o else .none := by
  have hlow : ¬ 0x01000000 + b * 0x400000 + n * 0x10000 + o < 0xA0000 := by omega
  have hwin : 0x01000000 ≤ 0x01000000 + b * 0x400000 + n * 0x10000 + o ∧ 0x01000000 + b * 0x400000 + n * 0x10000 + o < 0x03000000 := by omega
  have hbank : (0x01000000 + b * 0x400000 + n * 0x10000 + o - 0x01000000) / 0x400000 = b := by omega
  have hplace : (0x01000000 + b * 0x400000 + n * 0x10000 + o - 0x01000000) % 0x400000 / 0x10000 = n := by omega
  have hmod : (0x01000000 + b * 0x400000 + n * 0x10000 + o) % 0x10000 = o := by omega
  simp only [locate, ha, hlow, hwin, hbank, hplace, hmod, hn, and_true, if_true, if_false, and_self]

theorem blkIdx_host_lt (h : HostBlk) : blkIdx (.host h) < 10 := by cases h <;> decide

theorem blkIdx_bank (b : Bank) (x : BankBlk) : 10 + 8 * b.val ≤ blkIdx (.bank b x) ∧ blkIdx (.bank b x) < 10 + 8 * b.val + 8 := by
  cases x <;> simp only [blkIdx] <;> omega

theorem blkBase_le (k : Blk) : blkBase k ≤ 0x02FF0000 := by
  cases k with
  | host h => have := blkIdx_host_lt h; simp only [blkBase]; omega
  | bank b x => have := blkIdx_bank b x; have := b.isLt; simp only [blkBase]; omega
  | chan c => have := c.isLt; simp only [blkBase]; omega

theorem blkBase_mod (k : Blk) : blkBase k % 0x10000 = 0 := by
  cases k <;> simp only [blkBase] <;> omega

theorem toNat_regAddr (k : Blk) {o : Nat} (ho : o < 0x10000) : (regAddr k o).toNat = blkBase k + o := by
  have := blkBase_le k
  simp only [regAddr, BitVec.toNat_ofNat]
  omega

/-- The address of a register at one of its aliases names the block, the normal offset and which of the aliases it is. -/
theorem locate_regAddr {off al : Nat} (k : Blk) (ho : off < 0x4000) (ha : al < 4) :
    locate (regAddr k (off + 0x4000 * al)) = .reg k off al := by
  have hO : off + 0x4000 * al < 0x10000 := by omega
  have haddr := toNat_regAddr k hO
  rw [← regPlace_blkIdx k ho ha]
  cases k with
  | host h => exact locate_hostAddr (blkIdx_host_lt h) hO haddr
  | bank b x =>
    have hx := blkIdx_bank b x
    rw [locate_bankAddr b.isLt (by omega) hO haddr, if_pos (by omega)]
    congr 1
    omega
  | chan c =>
    have hc := c.isLt
    have hbase : blkBase (.chan c) = 0x01000000 + c.val / 24 * 0x400000 + (16 + c.val % 24) * 0x10000 := by
      simp only [blkBase]; omega
    rw [hbase] at haddr
    rw [locate_bankAddr (by omega) (by omega) hO haddr, if_neg (by omega), if_pos (by omega)]
    congr 1
    simp only [blkIdx]
    omega

/-- A 32-bit access to a register's offset is not misaligned (R41). -/
theorem badWidth_regAddr {o : Nat} (k : Blk) (ho : o < 0x10000) (h4 : o % 4 = 0) : badWidth .b32 (regAddr k o) = false := by
  have haligned : (blkBase k + o) % 4 = 0 := by have := blkBase_mod k; omega
  simp only [badWidth, toNat_regAddr k ho, haligned, ne_eq, not_true_eq_false, decide_false, Bool.or_self]

/-! ### Words put together from two -/

@[simp] theorem merge_mask_zero (a b : Word) : merge a b 0 = a := by
  ext i
  simp only [merge, BitVec.getElem_or, BitVec.getElem_and, BitVec.getElem_not, BitVec.getElem_zero, Bool.not_false,
    Bool.and_true, Bool.and_false, Bool.or_false]

/-- Inside a mask a value merged under it counts, also after some of its bits have been cleared. -/
theorem merge_clear_and_mask (a b : Word) (mask gone : Nat) :
    merge (merge a b mask) 0 gone &&& BitVec.ofNat 32 mask = merge b 0 gone &&& BitVec.ofNat 32 mask := by
  ext i
  simp only [merge, BitVec.getElem_or, BitVec.getElem_and, BitVec.getElem_not]
  cases (BitVec.ofNat 32 mask)[i] <;> simp

theorem bit_eq_getLsbD (w : Word) (i : Nat) : bit w i = w.getLsbD i := by
  rw [bit, BitVec.getLsbD, Nat.testBit_eq_decide_div_mod_eq]
  exact (Bool.beq_eq_decide_eq _ _)

theorem bit_or_twoPow (w : Word) {i : Nat} (hi : i < 32) : bit (w ||| BitVec.ofNat 32 (2 ^ i)) i = true := by
  rw [bit_eq_getLsbD, BitVec.getLsbD_or, BitVec.getLsbD_ofNat]
  simp [hi]

/-- The RA bits of an event stand below the accession number, whose advance leaves them alone (R53). -/
theorem bit_accAdvance (w : Word) (mask : Nat) {i : Nat} (hi : i < 24) : bit (accAdvance w mask) i = bit (w ||| BitVec.ofNat 32 mask) i := by
  have hlow (x : Word) (n : Nat) : (putBits x 31 24 n).toNat % 2 ^ 24 = x.toNat % 2 ^ 24 := by
    simp only [putBits, BitVec.toNat_ofNat]
    omega
  have htest (x : Nat) : x.testBit i = (x % 2 ^ 24).testBit i := by rw [Nat.testBit_mod_two_pow]; simp [hi]
  simp only [bit_eq_getLsbD, BitVec.getLsbD, accAdvance]
  rw [htest, hlow, ← htest]

/-! ### The cycle of an access (R442) -/

section
variable (d : Dev) (n : Nat)

@[simp] theorem accessCycle_regs : (accessCycle d n).regs = d.regs := by unfold accessCycle; split <;> rfl
@[simp] theorem accessCycle_pwr : (accessCycle d n).pwr = d.pwr := by unfold accessCycle; split <;> rfl
@[simp] theorem accessCycle_xc : (accessCycle d n).xc = d.xc := by unfold accessCycle; split <;> rfl
@[simp] theorem accessCycle_chans : (accessCycle d n).chans = d.chans := by unfold accessCycle; split <;> rfl
@[simp] theorem rd_accessCycle (k : Blk) (off : Nat) : rd (accessCycle d n) k off = rd d k off := by unfold accessCycle; split <;> rfl

@[simp] theorem lateMask_accessCycle (k : Blk) (off cfg : Nat) : lateMask (accessCycle d n) k off cfg = lateMask d k off cfg := by
  unfold accessCycle; split <;> rfl

end

/-! ### Access errors (R40) -/

theorem rd_raEvent_self (d : Dev) (k : Blk) (off mask : Nat) :
    rd (raEvent d k off mask) k off = rd d k off ||| BitVec.ofNat 32 mask ∨ rd (raEvent d k off mask) k off = accAdvance (rd d k off) mask := by
  unfold raEvent
  dsimp only
  split
  · exact .inl (rd_wr_self ..)
  · exact .inr (rd_wr_self ..)

theorem rd_raEvent_ne (d : Dev) (mask : Nat) {k j : Blk} {off o : Nat} (h : regKey j o ≠ regKey k off) :
    rd (raEvent d k off mask) j o = rd d j o := by
  unfold raEvent
  dsimp only
  split <;> exact rd_wr_ne d _ h

/-- An event of a status register sets its RA bit. -/
theorem flag_raEvent (d : Dev) (k : Blk) (off : Nat) {i : Nat} (hi : i < 24) : flag (raEvent d k off (2 ^ i)) k off i = true := by
  unfold flag
  rcases rd_raEvent_self d k off (2 ^ i) with h | h
  · rw [h, bit_or_twoPow _ (by omega)]
  · rw [h, bit_accAdvance _ _ hi, bit_or_twoPow _ (by omega)]

/-- An access error writes ACC_STS and ACC_ADDR of its block and no other register. -/
theorem rd_accErr_ne (d : Dev) (p : Port) (e kind : Nat) {k j : Blk} {o : Nat} (hs : regKey j o ≠ regKey k ACC_STS)
    (ha : regKey j o ≠ regKey k ACC_ADDR) : rd (accErr d p k e kind) j o = rd d j o := by
  unfold accErr
  dsimp only
  split
  · rw [rd_wr_ne _ _ ha, rd_raEvent_ne _ _ hs]
  · exact rd_raEvent_ne _ _ hs

/-- An access error shows in ACC_STS of its block. -/
theorem flag_accErr (d : Dev) (p : Port) (k : Blk) (e : Nat) {kind : Nat} (hk : kind - 1 < 24) :
    flag (accErr d p k e kind) k ACC_STS (kind - 1) = true := by
  have hkeys : regKey k ACC_STS ≠ regKey k ACC_ADDR := by simp only [regKey, ACC_STS, ACC_ADDR]; omega
  unfold accErr
  dsimp only
  split
  · rw [flag, rd_wr_ne _ _ hkeys, ← flag, flag_raEvent _ _ _ hk]
  · exact flag_raEvent _ _ _ hk

/-! ### The register map's common rows (R39, R335) -/

/-- ACC_STS is a status register in every block. -/
theorem regAt_accSts (k : Blk) : regAt k ACC_STS = some ({ off := 0x0FF0, ra := 0x7 }, 0) := by
  cases k with
  | host h => cases h <;> rfl
  | bank b x => cases x <;> rfl
  | chan c => rfl

/-- ACC_ADDR has no field that a write stores, in every block. -/
theorem regAt_accAddr (k : Blk) : regAt k ACC_ADDR = some ({ off := 0x0FF4, count := 2 }, 0) := by
  cases k with
  | host h => cases h <;> rfl
  | bank b x => cases x <;> rfl
  | chan c => rfl

/-! ### Registers with a copy per port (R223) -/

theorem homeOff_lt (p : Port) (k : Blk) {off : Nat} (ho : off < 0x4000) : homeOff p k off < 0x4000 := by
  have hp := (portNo p).isLt
  unfold homeOff schOff
  repeat' split
  all_goals omega

/-- The copies lie apart from the registers every block holds, so an offset is stored at such a register only if it is that one. -/
theorem homeOff_eq_common {p : Port} {k : Blk} {off o : Nat} (h : homeOff p k off = o) (ho : o < 0x2000) : off = o := by
  unfold homeOff schOff at h
  repeat' split at h
  all_goals omega

/-! ### Storing a register's fields (R6, R37, R47, R50) -/

/-- What a write, through any of the aliases, asks a register to hold: the fields of `mask` take the value, within their ranges. -/
def storeWant (d : Dev) (p : Port) (k : Blk) (off al : Nat) (v : Word) (mask : Nat) : Word :=
  let old := rd d k (homeOff p k off)
  merge old (normReg k off (merge old (preNorm k off (aliasVal al old v)) mask)) mask

/-- What the register then holds: held configuration fields as they were, and the bits that a protective clear has taken 0. -/
def storeKept (d : Dev) (p : Port) (k : Blk) (off al : Nat) (v : Word) (mask cfg : Nat) : Word :=
  merge (merge (storeWant d p k off al v mask) (rd d k (homeOff p k off)) (lateMask d k off cfg)) 0
    (maskIn d.cleared (regKey k (homeOff p k off)))

/-- The device that holds it, with the write noted in its cycle. -/
def storeTaken (d : Dev) (p : Port) (k : Blk) (off al : Nat) (v : Word) (mask cfg : Nat) : Dev :=
  { wr d k (homeOff p k off) (storeKept d p k off al v mask cfg) with
    wrote := d.wrote ++ [(regKey k (homeOff p k off), (touched al v &&& BitVec.ofNat 32 mask).toNat)] }

section
variable (d : Dev) (p : Port) (k : Blk) (off al : Nat) (v : Word) (mask cfg : Nat)

/-- A store that would change a held field is refused with CFGLATE of the block; every store is taken otherwise. -/
theorem store_eq : store d p k off al v mask cfg =
    if (storeWant d p k off al v mask ^^^ rd d k (homeOff p k off)) &&& BitVec.ofNat 32 (lateMask d k off cfg) = 0 then
      storeTaken d p k off al v mask cfg
    else accErr (storeTaken d p k off al v mask cfg) p k (off + 0x4000 * al) 2 := rfl

/-- With no field held, a store is taken whole. -/
theorem store_of_late_zero (h : lateMask d k off cfg = 0) : store d p k off al v mask cfg = storeTaken d p k off al v mask cfg := by
  rw [store_eq, h, if_pos]
  exact BitVec.and_zero

@[simp] theorem storeTaken_chans : (storeTaken d p k off al v mask cfg).chans = d.chans := rfl

@[simp] theorem rd_storeTaken_self :
    rd (storeTaken d p k off al v mask cfg) k (homeOff p k off) = storeKept d p k off al v mask cfg := rd_wr_self ..

theorem rd_storeTaken_ne {j : Blk} {o : Nat} (h : regKey j o ≠ regKey k (homeOff p k off)) :
    rd (storeTaken d p k off al v mask cfg) j o = rd d j o := rd_wr_ne _ _ h

end

end Sys2Proof.Machine
end

section
/-! SUPPORT. A write of a register that only stores: the access reaches the register's row, the row stores its fields, and the store is
taken or refused (O21). -/

namespace Sys2Proof.Machine

open Sys2Proof

theorem PlainWrite.off_lt {s : State} {p : Port} {k : Blk} {off al : Nat} {v : Word} {r : RegDef} (h : PlainWrite s p k off al v r) :
    off < 0x4000 := h.1

theorem PlainWrite.ne_xdata {s : State} {p : Port} {k : Blk} {off al : Nat} {v : Word} {r : RegDef} (h : PlainWrite s p k off al v r) :
    k = bMSP → off ≠ MSP_XDATA := by
  obtain ⟨-, -, -, -, -, -, -, -, -, hx, -⟩ := h
  exact hx

/-! ### The access reaches the register (R36, R41, R42) -/

/-- An access is indirect only at MSP_XDATA (R62). -/
theorem xdataOf_eq_none {a : Word} {k : Blk} {off al : Nat} (d : Dev) (w : Width) (hl : locate a = .reg k off al)
    (hx : k = bMSP → off ≠ MSP_XDATA) : xdataOf d w a = none := by
  have hno : k ≠ bMSP ∨ off ≠ MSP_XDATA ∨ badWidth w a = true := by
    by_cases hk : k = bMSP
    · exact .inr (.inl (hx hk))
    · exact .inl hk
  unfold xdataOf
  rw [hl]
  exact if_pos hno

/-- A served 32-bit write of a register, at one of its aliases, is a write at the register's offset in its block, in the access's cycle. -/
theorem portWrite_reg {p : Port} {k : Blk} {off al : Nat} {v : Word} {m m' : Mem} {d d' : Dev} {bad : Bool} (ho : off < 0x4000) (ha : al < 4)
    (h4 : off % 4 = 0) (hx : k = bMSP → off ≠ MSP_XDATA) (hs : portServes d true (regAddr k (off + 0x4000 * al)) = true)
    (hf : blkField k = true → d.pwr.fup = true ∧ d.xc.up = true)
    (hw : regWrite m (accessCycle d (portNo p).val) p k off al v = (m', d', bad)) :
    portWrite p .b32 (regAddr k (off + 0x4000 * al)) v m d = (m', d') := by
  have hl := locate_regAddr k ho ha
  have hwidth : badWidth .b32 (regAddr k (off + 0x4000 * al)) = false := badWidth_regAddr k (by omega) (by omega)
  have hup : (blkField k && !d.pwr.fup) = false ∧ (blkField k && !d.xc.up) = false := by
    cases hb : blkField k with
    | false => exact ⟨rfl, rfl⟩
    | true => obtain ⟨hfup, hxc⟩ := hf hb; rw [hfup, hxc]; exact ⟨rfl, rfl⟩
  have hdirect : directWrite m (accessCycle d (portNo p).val) p .b32 (regAddr k (off + 0x4000 * al)) v = (m', d', if bad then 2 else 0) := by
    unfold directWrite
    rw [hl]
    simp only [accessCycle_pwr, accessCycle_xc, hup, hwidth, hw, Bool.false_eq_true, if_false]
  have hbus : busWrite m d p .b32 (regAddr k (off + 0x4000 * al)) v = (m', d', if bad then 2 else 0) := by
    unfold busWrite
    dsimp only
    rw [xdataOf_eq_none _ _ hl hx]
    exact hdirect
  rw [portWrite, if_pos hs, hbus]

/-- A write of a register that only stores stores its RW fields and leaves bank memory alone. -/
theorem regWrite_plain {s : State} {p : Port} {k : Blk} {off al : Nat} {v : Word} {r : RegDef} (h : PlainWrite s p k off al v r) :
    let d := accessCycle s.dev (portNo p).val
    regWrite s.mem d p k off al v = (s.mem, store d p k off al v r.rw r.cfg, false) := by
  obtain ⟨-, ⟨i, hrow⟩, hlock, hra, hwk, hlo, -, htsset, hfol, -, hsch, hplain⟩ := h
  have hnotTs : ¬ (k = bTB ∧ off = TB_TSSET_HI) := fun ⟨hk, hoff⟩ => htsset hk hoff
  have hnotFol : ¬ (k = bFOL ∧ off = FOL_CTL) := fun ⟨hk, _⟩ => hfol hk
  simp only [regWrite, hrow, if_neg hlock, rowWrite, hra, hwk, hlo, ne_eq, not_true_eq_false, Bool.false_eq_true, false_and, if_false, hnotTs,
    hnotFol]
  cases k with
  | host h => dsimp only at hplain ⊢; rw [hplain]; rfl
  | chan c => dsimp only at hplain ⊢; rw [hplain]; rfl
  | bank b x =>
    dsimp only at hplain
    cases x
    case bk => dsimp only; rw [if_neg (hsch b rfl), hplain]; rfl
    all_goals dsimp only; rw [hplain]; rfl

/-! ### What the store leaves -/

theorem storeWant_eq_asksFor (s : State) (p : Port) (k : Blk) (off al : Nat) (v : Word) (r : RegDef) :
    storeWant (accessCycle s.dev (portNo p).val) p k off al v r.rw = asksFor s p k off al v r := by
  simp only [storeWant, rd_accessCycle]
  rfl

/-- A row that stores no bits asks its register for what it holds. -/
theorem asksFor_of_rw_zero (s : State) (p : Port) (k : Blk) (off al : Nat) (v : Word) {r : RegDef} (h : r.rw = 0) :
    asksFor s p k off al v r = rd s.dev k (homeOff p k off) := by
  simp only [asksFor, h, merge_mask_zero]

/-- A plain write that changes a register is to neither of the two that an access error writes. -/
theorem PlainWrite.homeOff_ne_acc {s : State} {p : Port} {k : Blk} {off al : Nat} {v : Word} {r : RegDef} (h : PlainWrite s p k off al v r)
    (hnew : asksFor s p k off al v r ≠ rd s.dev k (homeOff p k off)) : homeOff p k off ≠ ACC_STS ∧ homeOff p k off ≠ ACC_ADDR := by
  obtain ⟨-, ⟨i, hrow⟩, -, hra, -⟩ := h
  constructor
  · intro hhome
    obtain rfl := homeOff_eq_common hhome (by decide)
    rw [regAt_accSts] at hrow
    simp only [Option.some.injEq, Prod.mk.injEq] at hrow
    obtain ⟨rfl, -⟩ := hrow
    exact absurd hra (by decide)
  · intro hhome
    obtain rfl := homeOff_eq_common hhome (by decide)
    rw [regAt_accAddr] at hrow
    simp only [Option.some.injEq, Prod.mk.injEq] at hrow
    obtain ⟨rfl, -⟩ := hrow
    exact hnew (asksFor_of_rw_zero s p k ACC_ADDR al v rfl)

/-- The state after a plain write. -/
def plainStored (s : State) (p : Port) (k : Blk) (off al : Nat) (v : Word) (r : RegDef) : State :=
  { s with dev := store (accessCycle s.dev (portNo p).val) p k off al v r.rw r.cfg }

section
variable {s : State} {p : Port} {k : Blk} {off al : Nat} {v : Word} {r : RegDef}

/-- With no field held, the register holds what the write asks for, and every other register, the channels and bank memory stay. -/
theorem plainStored_stores (h : PlainWrite s p k off al v r) (hlate : lateMask s.dev k off r.cfg = 0) :
    let t := plainStored s p k off al v r
    rd t.dev k (homeOff p k off) = unlessCleared s p k off (asksFor s p k off al v r) ∧ t.mem = s.mem ∧ t.dev.chans = s.dev.chans ∧
      ∀ j o, o < 0x4000 → (j ≠ k ∨ o ≠ homeOff p k off) → rd t.dev j o = rd s.dev j o := by
  have hstore : (plainStored s p k off al v r).dev = storeTaken (accessCycle s.dev (portNo p).val) p k off al v r.rw r.cfg :=
    store_of_late_zero _ _ _ _ _ _ _ _ (by rw [lateMask_accessCycle, hlate])
  dsimp only
  rw [hstore]
  refine ⟨?_, rfl, by rw [storeTaken_chans, accessCycle_chans], fun j o hO hne => ?_⟩
  · rw [rd_storeTaken_self, storeKept, lateMask_accessCycle, hlate, merge_mask_zero, storeWant_eq_asksFor]
    rfl
  · have hkey : regKey j o ≠ regKey k (homeOff p k off) := by
      rw [ne_eq, regKey_eq_iff hO (homeOff_lt p k h.off_lt)]
      exact fun ⟨hj, ho⟩ => hne.elim (· hj) (· ho)
    rw [rd_storeTaken_ne _ _ _ _ _ _ _ _ hkey, rd_accessCycle]

/-- A change of a held field is refused: CFGLATE of the block is set, and the held fields keep their values. -/
theorem plainStored_refuses (h : PlainWrite s p k off al v r)
    (hnew : (asksFor s p k off al v r ^^^ rd s.dev k (homeOff p k off)) &&& BitVec.ofNat 32 (lateMask s.dev k off r.cfg) ≠ 0) :
    let t := plainStored s p k off al v r
    flag t.dev k ACC_STS 1 = true ∧ rd t.dev k (homeOff p k off) &&& BitVec.ofNat 32 (lateMask s.dev k off r.cfg) =
      unlessCleared s p k off (rd s.dev k (homeOff p k off)) &&& BitVec.ofNat 32 (lateMask s.dev k off r.cfg) := by
  have hstore : (plainStored s p k off al v r).dev =
      accErr (storeTaken (accessCycle s.dev (portNo p).val) p k off al v r.rw r.cfg) p k (off + 0x4000 * al) 2 := by
    refine (store_eq ..).trans (if_neg ?_)
    rwa [storeWant_eq_asksFor, rd_accessCycle, lateMask_accessCycle]
  have hchange : asksFor s p k off al v r ≠ rd s.dev k (homeOff p k off) := by
    intro heq
    rw [heq, BitVec.xor_self, BitVec.zero_and] at hnew
    exact hnew rfl
  have hlt := homeOff_lt p k h.off_lt
  obtain ⟨hsts, haddr⟩ := h.homeOff_ne_acc hchange
  dsimp only
  rw [hstore]
  refine ⟨flag_accErr _ _ _ _ (by decide), ?_⟩
  rw [rd_accErr_ne, rd_storeTaken_self, storeKept, lateMask_accessCycle, rd_accessCycle, merge_clear_and_mask]
  · rfl
  · rw [ne_eq, regKey_eq_iff hlt (by decide)]
    exact fun hkey => hsts hkey.2
  · rw [ne_eq, regKey_eq_iff hlt (by decide)]
    exact fun hkey => haddr hkey.2

/-! ### REG_WRITE and ALIAS_WRITE -/

variable (h : PlainWrite s p k off al v r) (ha : al < 4) (hs : portServes s.dev true (regAddr k (off + 0x4000 * al)) = true)
  (hf : blkField k = true → s.dev.pwr.fup = true ∧ s.dev.xc.up = true) (h4 : off % 4 = 0)
include h ha hs hf h4

theorem portWrite_plain :
    portWrite p .b32 (regAddr k (off + 0x4000 * al)) v s.mem s.dev = (s.mem, (plainStored s p k off al v r).dev) :=
  portWrite_reg h.off_lt ha h4 h.ne_xdata hs hf (regWrite_plain h)

theorem exec_regWrite_plain :
    exec (.regWrite p (regAddr k (off + 0x4000 * al)) .b32 v) s = .next (plainStored s p k off al v r) := by
  show ofBoth (portWrite p .b32 (regAddr k (off + 0x4000 * al)) v) s = _
  rw [ofBoth, portWrite_plain h ha hs hf h4]
  rfl

theorem exec_aliasWrite_plain (hal : al ≠ 0) :
    exec (.aliasWrite p (regAddr k (off + 0x4000 * al)) .b32 v) s = .next (plainStored s p k off al v r) := by
  have halias : isAlias (regAddr k (off + 0x4000 * al)) = true := by
    unfold isAlias
    rw [locate_regAddr k h.off_lt ha]
    exact decide_eq_true hal
  show ofBoth (portWriteIf isAlias p .b32 (regAddr k (off + 0x4000 * al)) v) s = _
  rw [ofBoth, portWriteIf, if_pos halias, portWrite_plain h ha hs hf h4]
  rfl

end

/-- Settles O21: a write of a register that only stores leaves the state that the store leaves, whether the store is taken or refused. -/
theorem registerWritesStore : Obligations.RegisterWritesStore := by
  unfold Obligations.RegisterWritesStore
  intro s p k off al v r ha h hs hf h4
  refine ⟨fun hal => ?_, fun hal => ?_⟩
  · have hrun := exec_regWrite_plain h ha hs hf h4
    subst hal
    exact ⟨fun hlate => ⟨_, hrun, plainStored_stores h hlate⟩, fun hnew => ⟨_, hrun, plainStored_refuses h hnew⟩⟩
  · have hrun := exec_aliasWrite_plain h ha hs hf h4 hal
    exact ⟨fun hlate => ⟨_, hrun, plainStored_stores h hlate⟩, fun hnew => ⟨_, hrun, plainStored_refuses h hnew⟩⟩

end Sys2Proof.Machine
end

section
/-! SUPPORT. The state after reset (O59). -/

namespace Sys2Proof.Machine

open Sys2Proof

/-- An unlisted register of the register file holds the reset value of its row. -/
theorem regDefault_regKey (k : Blk) {off : Nat} (ho : off < 0x4000) : regDefault (regKey k off) = resetOf k off := by
  have hblk : regKey k off / 0x4000 = blkIdx k := by simp only [regKey]; omega
  have hoff : regKey k off % 0x4000 = off := by simp only [regKey]; omega
  rw [regDefault, hblk, hoff, blkOfIdx_blkIdx]

/-- After reset every register holds its default: the register file lists none. -/
theorem atReset_reset (k : Blk) (off : Nat) : AtReset State.reset.dev k off := rfl

/-- After reset a register reads the reset value that the register map gives it (R8). -/
theorem rd_reset (k : Blk) {off : Nat} (ho : off < 0x4000) : rd State.reset.dev k off = resetOf k off :=
  (atReset_reset k off).trans (regDefault_regKey k ho)

/-- Settles O59: the register file lists no register after reset, so each reads its row's reset value; memory, queue and locks are empty. -/
theorem resetState : Obligations.ResetState := by
  unfold Obligations.ResetState
  refine ⟨rfl, rfl, fun _ => rfl, atReset_reset, rfl, rfl, fun _ => rfl, ?_, ?_, ?_, ?_, ?_, ?_, fun c => ?_⟩
  all_goals
    rw [rd_reset _ (by decide)]
    rfl

end Sys2Proof.Machine
end
